-- ==== Sys2Proof/Word.lean ====
section
/-! DEFINITION. The word type of the codec: a sequence of bits (spec 00_scope.md R12).
Lengths, positions and operand buses before they are narrowed are plain naturals (R13: "All values are unsigned
natural numbers"); registers are bit vectors (Machine/State.lean). -/

namespace Sys2Proof

/-- A bit sequence `c[1..n]`, first bit first (R12). Positions are 1-based (R11); the list's head is position 1. -/
abbrev BitSeq := List Bool

end Sys2Proof
end

