-- ==== Sys2Proof/Config.lean ====
section
/-! DEFINITION. The elaboration-time parameters of the unit and the widths derived from them
(spec 00_scope.md R6 to R9, 10_state.md R19, 30_encoding.md R53). -/

namespace Sys2Proof

/-- The parameters of one elaborated unit. `W` is the data-word length (R6) and `cntW` is `CNT_W`, the width of each
statistics counter (R9). The proof field is R6's rule that a configuration with `W <= 0` has no unit at all: no such
value can be built. The spec gives `CNT_W` no smallest value (log entry 8). -/
structure Config where
  W : Nat
  cntW : Nat
  W_pos : 1 ≤ W
deriving DecidableEq, Repr

/-- Why a configuration is refused when the unit is elaborated (R6); never an outcome of a step. -/
inductive ConfigError where
  /-- `word_length <= 0` (R6, 93_implementation_defined.md U3). Safe: no unit exists. -/
  | wordLengthNotPositive
deriving DecidableEq, Repr

/-- Elaborating a unit with word length `w` (any integer) and counter width `cntW`, default 32 (R6, R9, R126). -/
def Config.elaborate (w : Int) (cntW : Nat := 32) : Except ConfigError Config :=
  if h : 1 ≤ w.toNat then .ok ⟨w.toNat, cntW, h⟩ else .error .wordLengthNotPositive

/-- `K`, the number of control positions (R7: `K = |P| = floor(log2 W) + 1`). -/
def Config.K (c : Config) : Nat := Nat.log2 c.W + 1

/-- `NMAX = W + K`, the width of the code-block bus (R8). -/
def Config.NMAX (c : Config) : Nat := c.W + c.K

/-- `LW = floor(log2 NMAX) + 1`, the width of every length field (R8). -/
def Config.LW (c : Config) : Nat := Nat.log2 c.NMAX + 1

/-- `CW = 3 + LW + NMAX`, the width of the packed command word (30_encoding.md R53). -/
def Config.CW (c : Config) : Nat := 3 + c.LW + c.NMAX

/-- The configuration of the unit behind the host's interface. DESIGN CHOICE (log entry 2): the spec gives `W` no default; 11 is the word
length of the opcode table's own patterns. `CNT_W = 32` is R9's default. -/
def Config.w11 : Config := ⟨11, 32, by decide⟩

end Sys2Proof
end

