-- ==== Sys2Proof/Syntax.lean ====
section
/-! DEFINITION. The commands, one constructor per row of spec/opcode_table.json (30_encoding.md R54).
Every command carries the same two operands, `len` and `bits` (R53, R65), also where it ignores them, so that no bit of
a command word is lost. Their widths depend on the configuration, so they are naturals here and Sys2Proof/WellFormed.lean
bounds them. -/

namespace Sys2Proof

/-- A command `(op, len, bits)`. -/
inductive Instr where
  /-- op 000 (43_decoder.md R95) -/
  | nop (len bits : Nat)
  /-- op 001 (42_encoder.md R80) -/
  | enc (len bits : Nat)
  /-- op 010 (43_decoder.md R92) -/
  | dec (len bits : Nat)
  /-- op 011 (43_decoder.md R93) -/
  | decfix (len bits : Nat)
  /-- op 100 (43_decoder.md R94) -/
  | clrstat (len bits : Nat)
  /-- op 101, reserved (60_exceptions.md R112) -/
  | reserved101 (len bits : Nat)
  /-- op 110, reserved (60_exceptions.md R112) -/
  | reserved110 (len bits : Nat)
  /-- op 111, reserved (60_exceptions.md R112) -/
  | reserved111 (len bits : Nat)
deriving DecidableEq, Repr

/-- The `len` operand (R55). -/
def Instr.len : Instr → Nat
  | .nop l _ | .enc l _ | .dec l _ | .decfix l _ => l
  | .clrstat l _ | .reserved101 l _ | .reserved110 l _ | .reserved111 l _ => l

/-- The `bits` operand, as the number on the bus (R56). -/
def Instr.bits : Instr → Nat
  | .nop _ b | .enc _ b | .dec _ b | .decfix _ b => b
  | .clrstat _ b | .reserved101 _ b | .reserved110 _ b | .reserved111 _ b => b

end Sys2Proof
end

