-- ==== Sys2Proof/WellFormed.lean ====
section
/-! DEFINITION. When a command fits the command port of a configuration (30_encoding.md R52, R53). -/

namespace Sys2Proof

/-- `len` fits the `LW` bits of `cmd_len` (R52, R55). -/
def lenFits (c : Config) (len : Nat) : Bool := decide (len < 2 ^ c.LW)

/-- `bits` fits the `NMAX` bits of `cmd_bits` (R52, R56). -/
def bitsFit (c : Config) (bits : Nat) : Bool := decide (bits < 2 ^ c.NMAX)

/-- A command that the port of configuration `c` can carry. Legality of `len` for the op is not asked here: an illegal
length is a command the unit accepts and records as LEN_FAULT (R57, R113). -/
def Instr.wf (c : Config) (i : Instr) : Bool := lenFits c i.len && bitsFit c i.bits

end Sys2Proof
end

