-- ==== Sys2Proof/Decode.lean ====
section
/-! DEFINITION. Decoding command words and, after it, the encoder (30_encoding.md R53, R54, R58, R59). -/

namespace Sys2Proof

/-- Why a number is not a command word. -/
inductive DecodeError where
  /-- The number has a one bit at or above bit `CW`, so no `CW`-bit word spells it (R53, R59; log entry 5). Safe: the
  port cannot carry it. -/
  | widerThanCommandWord
deriving DecidableEq, Repr

/-- The op-code table of R54, read on the three bits of `op`, most significant first. Total: every value of `op` is a
row, and a reserved code is its own row (R57, R58). -/
def decodeFields (op : BitVec 3) (len bits : Nat) : Instr :=
  match op.getLsbD 2, op.getLsbD 1, op.getLsbD 0 with
  | false, false, false => .nop len bits
  | false, false, true => .enc len bits
  | false, true, false => .dec len bits
  | false, true, true => .decfix len bits
  | true, false, false => .clrstat len bits
  | true, false, true => .reserved101 len bits
  | true, true, false => .reserved110 len bits
  | true, true, true => .reserved111 len bits

/-- Bits `[2:0]` of a command word (R53). -/
def wordOp (w : Nat) : BitVec 3 := BitVec.ofNat 3 w

/-- Bits `[LW+2:3]` of a command word (R53). -/
def wordLen (c : Config) (w : Nat) : Nat := (w >>> 3) % 2 ^ c.LW

/-- Bits `[LW+NMAX+2:LW+3]` of a command word (R53). -/
def wordBits (c : Config) (w : Nat) : Nat := (w >>> (c.LW + 3)) % 2 ^ c.NMAX

/-- Decoding a packed command word of configuration `c` (R53, R58). -/
def decodeWord (c : Config) (w : Nat) : Except DecodeError Instr :=
  if w < 2 ^ c.CW then .ok (decodeFields (wordOp w) (wordLen c w) (wordBits c w))
  else .error .widerThanCommandWord

/-- The op code of a command (R54). -/
def Instr.opcode : Instr → Nat
  | .nop _ _ => 0
  | .enc _ _ => 1
  | .dec _ _ => 2
  | .decfix _ _ => 3
  | .clrstat _ _ => 4
  | .reserved101 _ _ => 5
  | .reserved110 _ _ => 6
  | .reserved111 _ _ => 7

/-- The packed command word, R53's `word = op + (len << 3) + (bits << (LW + 3))`. -/
def encode (c : Config) (i : Instr) : Nat :=
  i.opcode + (i.len <<< 3) + (i.bits <<< (c.LW + 3))

/-- What the decoder of the reset configuration reads from the low `nbits` bits of `w`, every bit above being 0. -/
def decodeTableWord (nbits w : Nat) : Option Instr :=
  match decodeWord Config.w11 (w % 2 ^ nbits) with
  | .ok i => some i
  | .error _ => none

end Sys2Proof
end

