-- ==== Sys2Proof/Machine/State.lean ====
section
/-! DEFINITION. The state of the machine: the registers of spec 10_state.md R20, with the command port's coming cycles
beside them (log entry 3), and the state after reset (R39). The elaboration parameters are no state: they are a parameter
`c` of the registers, of every operation and of the unit's step (R19; log entry 1). -/

namespace Sys2Proof.Machine

/-- The registers of the unit, "exactly the registers in the table below, and nothing else" (R20), at the widths that
table gives them under configuration `c`. A value of this type is the register contents of a unit after its first reset
edge; a unit before that edge has none (70_reset_and_hazards.md R125; Machine/Boot.lean). -/
structure Regs (c : Config) where
  /-- `CNT_OK`, decoded blocks whose check found no mismatch (R21) -/
  cntOk : BitVec c.cntW
  /-- `CNT_ERR`, decoded blocks whose check found a mismatch (R22) -/
  cntErr : BitVec c.cntW
  /-- `CNT_FIX`, one-bit repairs applied (R23) -/
  cntFix : BitVec c.cntW
  /-- `STATUS`, sticky: bit 0 ILLEGAL_OP, bit 1 LEN_FAULT (R25) -/
  status : BitVec 2
  /-- `RES_OP`, op code of the last accepted command other than NOP (R26) -/
  resOp : BitVec 3
  /-- `RES_LEN`, length of the sequence in `RES_BITS` (R27) -/
  resLen : BitVec c.LW
  /-- `RES_BITS`, the result sequence, position `i` on bit `i-1` (R28) -/
  resBits : BitVec c.NMAX
  /-- `RES_CHK`, the last command ran the parity check (R29) -/
  resChk : Bool
  /-- `RES_ERR`, that check found a mismatch (R30) -/
  resErr : Bool
  /-- `RES_POS`, the localized position (R31) -/
  resPos : BitVec c.K
  /-- `RES_MISM`, the mismatch pattern (R32) -/
  resMism : BitVec c.K
  /-- `RES_RANGE`, the localized position lay beyond the block (R33) -/
  resRange : Bool
  /-- `RES_FLT`, the fault code (R34) -/
  resFlt : BitVec 2
  /-- `RSP_VALID`, the record is new in this cycle (R35) -/
  rspValid : Bool
deriving DecidableEq, Repr

/-- What the host drives on the input ports at one rising edge of `clk` (30_encoding.md R52). -/
structure Cycle (c : Config) where
  /-- `rst`, synchronous reset, active high -/
  rst : Bool
  /-- `cmd_valid`, a command is presented this cycle -/
  cmdValid : Bool
  /-- `cmd_op` -/
  cmdOp : BitVec 3
  /-- `cmd_len` -/
  cmdLen : BitVec c.LW
  /-- `cmd_bits` -/
  cmdBits : BitVec c.NMAX
deriving DecidableEq, Repr

/-- The machine behind the host's interface: the unit elaborated with configuration `Config.w11` (log entry 2), after its
first reset edge. `regs` is the state the spec gives the unit. `port` is what the host drives at the coming clock edges,
first edge first; after the listed edges the host presents nothing (log entry 3). -/
structure State where
  regs : Regs Config.w11
  port : List (Cycle Config.w11)
deriving DecidableEq, Repr

/-- Reasons for the machine to stop. There are none, so this type has no constructor: a fault of this unit is a record
in `STATUS` and `RES_FLT`, after which "The unit goes on accepting commands at the next edge" (60_exceptions.md R116;
log entry 7). -/
inductive Fault where
deriving DecidableEq, Repr

/-- Reasons for the model to refuse a command. -/
inductive Refusal where
  /-- Raised only by an arm of `exec` for a command without a meaning yet; no arm does. Safe. -/
  | notModelled (mnemonic : String)
deriving DecidableEq, Repr

/-- Every register after reset (R39, 70_reset_and_hazards.md R123): "which is 0 for every register". -/
def Regs.reset (c : Config) : Regs c where
  cntOk := 0
  cntErr := 0
  cntFix := 0
  status := 0
  resOp := 0
  resLen := 0
  resBits := 0
  resChk := false
  resErr := false
  resPos := 0
  resMism := 0
  resRange := false
  resFlt := 0
  rspValid := false

/-- The machine right after reset, with nothing driven on its port (R39; log entries 2 and 3). -/
def State.reset : State := ⟨Regs.reset Config.w11, []⟩

end Sys2Proof.Machine
end

