-- ==== Sys2Proof/Machine/Sequence.lean ====
section
/-! DEFINITION. The sequence notation of spec 00_scope.md R11 and R12: 1-based positions, `seq`, `vec`, `insert`,
`delete`. Position 0 and positions beyond the end never occur in a rule; what these total functions do there is in log
entry 9. -/

namespace Sys2Proof.Machine

/-- `c[j]`, the bit at 1-based position `j` (R12). -/
def bitAt (c : BitSeq) : Nat → Bool
  | 0 => false
  | j + 1 => c.getD j false

/-- `c` with the bit at position `j` set to `v`. -/
def setAt (c : BitSeq) (j : Nat) (v : Bool) : BitSeq :=
  match j with
  | 0 => c
  | j + 1 => c.set j v

/-- `c` with `c[j] <- 1 - c[j]` (43_decoder.md R88). -/
def flipAt (c : BitSeq) (j : Nat) : BitSeq := setAt c j (!bitAt c j)

/-- `insert(c, j, v)` (R12). -/
def insertAt (c : BitSeq) (j : Nat) (v : Bool) : BitSeq := c.insertIdx (j - 1) v

/-- `delete(c, j)` (R12). -/
def deleteAt (c : BitSeq) (j : Nat) : BitSeq :=
  match j with
  | 0 => c
  | j + 1 => c.eraseIdx j

/-- `[1, 2, ..., n]`, the positions of a sequence of length `n` (R11). -/
def positions (n : Nat) : List Nat := (List.range n).map (· + 1)

/-- `seq(v, n)`, the sequence `c[1..n]` with `c[i] = v[i-1]` (R12). -/
def seqOf (v n : Nat) : BitSeq := (List.range n).map fun i => v.testBit i

/-- The number whose bit `i-1` is `c[i]`, 0 above `|c|` (R11, R12). -/
def vecNat : BitSeq → Nat
  | [] => 0
  | b :: c => b.toNat + 2 * vecNat c

/-- `vec(c, n)`, the `n`-bit vector with `v[i-1] = c[i]` and 0 above `|c|` (R12). -/
def vecOf (c : BitSeq) (n : Nat) : BitVec n := BitVec.ofNat n (vecNat c)

/-- XOR of a list of bits (R13: "addition modulo 2 of single bits"). -/
def xorAll (bs : List Bool) : Bool := bs.foldr xor false

end Sys2Proof.Machine
end

