-- ==== Sys2Proof/Machine/BitBlock.lean ====
section
/-! DEFINITION. The BitBlock utilities of spec 41_bitblock.md (R67 to R73): control positions and power-of-two
decomposition. `W` is the data-word length. -/

namespace Sys2Proof.Machine

/-- The loop of `get_control_bits`: while `i <= n`, collect `i` and double it (R67). Every round doubles `i`, so `n`
rounds of fuel are never used up before the test fails. -/
def controlLoop (n : Nat) : Nat → Nat → List Nat
  | 0, _ => []
  | fuel + 1, i => if i ≤ n then i :: controlLoop n fuel (2 * i) else []

/-- `get_control_bits(n)` for any integer `n` (R67): "for `n <= 0` it returns `[]`". -/
def getControlBits (n : Int) : List Nat := controlLoop n.toNat n.toNat 1

/-- `P`, the control-position set of a unit with word length `W` (R68). -/
def P (W : Nat) : List Nat := getControlBits W

/-- `pexp(x)`, the powers of two that sum to `x`, ascending (R69). -/
def pexp (x : Nat) : List Nat := ((List.range (Nat.log2 x + 1)).filter fun k => x.testBit k).map fun k => 2 ^ k

/-- `Q(n) = { p in P : p < n }`, the present control set of a block of length `n`, ascending (R71). -/
def Q (W n : Nat) : List Nat := (P W).filter fun p => decide (p < n)

/-- `m(L) = |Q(L)|` (R72). -/
def parityCount (W L : Nat) : Nat := (Q W L).length

/-- `cov(p, n)`, the positions whose bits feed the parity of `p`, ascending (R73). -/
def cov (W p n : Nat) : List Nat := (positions n).filter fun j => decide (j ∉ P W) && decide (j &&& p ≠ 0)

/-- The four classes of a position (R73). -/
inductive PosClass where
  | control
  | fullyCovered
  | partlyCovered
  | uncovered
deriving DecidableEq, Repr

/-- The class of position `j` (R73). -/
def posClass (W j : Nat) : PosClass :=
  if j ∈ P W then .control
  else if (pexp j).all fun p => decide (p ∈ P W) then .fullyCovered
  else if (pexp j).any fun p => decide (p ∈ P W) then .partlyCovered
  else .uncovered

/-- `agree(L)`: encoder and decoder use the same control set for a block of `L` data bits (44_stream.md R102). -/
def agree (W L : Nat) : Bool :=
  !(decide (2 ^ parityCount W L ≤ W) && decide (2 ^ parityCount W L < L + parityCount W L))

end Sys2Proof.Machine
end

