-- ==== Sys2Proof/Machine/Syndrome.lean ====
section
/-! DEFINITION. The parity map of spec 43_decoder.md R83, used by encoder and decoder, and its XOR-tree form (R84). -/

namespace Sys2Proof.Machine

/-- The parity map `S`: one bit for every control position, in ascending order of position (R83; log entry 9). -/
abbrev ParityMap := List (Nat × Bool)

/-- `S[p]`. -/
def ParityMap.bit (S : ParityMap) (p : Nat) : Bool := (S.lookup p).getD false

/-- `S[p] <- S[p] xor 1`; "a power of two outside P has no accumulator", so nothing changes for such a `p` (R83). -/
def ParityMap.toggle (S : ParityMap) (p : Nat) : ParityMap :=
  S.map fun e => if e.1 = p then (e.1, !e.2) else e

/-- One round of the loop of R83, for position `j`. -/
def syndromeRound (W : Nat) (c : BitSeq) (S : ParityMap) (j : Nat) : ParityMap :=
  if j ∈ P W then S
  else if bitAt c j then (pexp j).foldl ParityMap.toggle S
  else S

/-- `compute_syndrome(c)` (R83). -/
def computeSyndrome (W : Nat) (c : BitSeq) : ParityMap :=
  (positions c.length).foldl (syndromeRound W c) ((P W).map fun p => (p, false))

/-- The XOR tree of control position `p` over a block `c` (R84). -/
def parityTree (W : Nat) (c : BitSeq) (p : Nat) : Bool := xorAll ((cov W p c.length).map (bitAt c))

end Sys2Proof.Machine
end

