-- ==== Sys2Proof/Machine/Operands.lean ====
section
/-! DEFINITION. The operands of a command: the legal lengths (spec 30_encoding.md R55) and the operand sequence (R56). -/

namespace Sys2Proof.Machine

/-- The lengths `ENC` takes: `1 <= L <= W` (R55). -/
def encLenLegal (c : Config) (len : Nat) : Bool := decide (1 ≤ len) && decide (len ≤ c.W)

/-- The lengths `DEC` and `DECFIX` take: `1 <= N <= NMAX` (R55). -/
def decLenLegal (c : Config) (len : Nat) : Bool := decide (1 ≤ len) && decide (len ≤ c.NMAX)

/-- The operand sequence of a command, `seq(bits, len)`: bits at and above `len` are ignored (R56). -/
def operand (len bits : Nat) : BitSeq := seqOf bits len

end Sys2Proof.Machine
end

