-- ==== Sys2Proof/Machine/Flags.lean ====
section
/-! DEFINITION. The flags and fields of a check, and the counters (spec 43_decoder.md R87 to R89, R93; 10_state.md R21
to R23, R30 to R33). `M` is a mismatch set in ascending order and `n` the length of the received block. -/

namespace Sys2Proof.Machine

/-- The localized position `e = sum(M)`, 0 when `M` is empty (R87, R93). -/
def localized (M : List Nat) : Nat := M.sum

/-- `M != {}` (R30). -/
def errorFound (M : List Nat) : Bool := !M.isEmpty

/-- `(M != {}) and (e > N)` (R33, R88, R93). -/
def outOfRange (M : List Nat) (n : Nat) : Bool := errorFound M && decide (n < localized M)

/-- A flip is applied: `M != {}` and not out of range (R88, R93). -/
def flipApplied (M : List Nat) (n : Nat) : Bool := errorFound M && !outOfRange M n

/-- `RES_MISM[k] <- (2^k in M)` for `0 <= k < K` (R32, R93). -/
def mismatchVec (K : Nat) (M : List Nat) : BitVec K := vecOf ((List.range K).map fun k => decide (2 ^ k ∈ M)) K

/-- A counter after an event that it counts when `b` holds: plus 1 modulo `2^CNT_W` (R9, R89). -/
def bump {n : Nat} (v : BitVec n) (b : Bool) : BitVec n := if b then v + 1 else v

/-- The counter update of one checked block (R89). -/
def Regs.countBlock {c : Config} (r : Regs c) (M : List Nat) (n : Nat) : Regs c :=
  { r with
    cntOk := bump r.cntOk (!errorFound M)
    cntErr := bump r.cntErr (errorFound M)
    cntFix := bump r.cntFix (flipApplied M n) }

/-- All three counters cleared (R94). -/
def Regs.clearCounters {c : Config} (r : Regs c) : Regs c := { r with cntOk := 0, cntErr := 0, cntFix := 0 }

end Sys2Proof.Machine
end

