-- ==== Sys2Proof/Machine/Ops.lean ====
section
/-! DEFINITION. The shared register operations: writing the result record (spec 10_state.md section 5), recording a
fault (60_exceptions.md R114, the unit's only exception handling; it has no trap entry and no return, R116, R117), and
an edge without a command. -/

namespace Sys2Proof.Machine

/-- The whole result record written with an op code and a result sequence, every other field 0: "Every accepted command
other than `NOP` writes every field of the record, including the fields it does not use, which it sets to 0" (10_state.md
section 5; R80, R92, R94). `RSP_VALID` becomes 1 for the next cycle (R35). -/
def Regs.putResult {c : Config} (r : Regs c) (op : BitVec 3) (out : BitSeq) : Regs c :=
  { r with
    resOp := op
    resLen := BitVec.ofNat c.LW out.length
    resBits := vecOf out c.NMAX
    resChk := false
    resErr := false
    resPos := 0
    resMism := 0
    resRange := false
    resFlt := 0
    rspValid := true }

/-- The check fields of `DECFIX` for mismatch set `M` of a block of length `n` (R93). -/
def Regs.putCheck {c : Config} (r : Regs c) (M : List Nat) (n : Nat) : Regs c :=
  { r with
    resChk := true
    resErr := errorFound M
    resPos := BitVec.ofNat c.K (localized M)
    resMism := mismatchVec c.K M
    resRange := outOfRange M n }

/-- `fault(code, bit)` for a command with op code `op` (60_exceptions.md R114): `STATUS[bit] <- 1`, the record zero but
for `RES_OP` and `RES_FLT`. `mask` is the `STATUS` bit. -/
def Regs.recordFault {c : Config} (r : Regs c) (op : BitVec 3) (code mask : BitVec 2) : Regs c :=
  { r.putResult op [] with
    status := r.status ||| mask
    resFlt := code }

/-- `raise IllegalOp()`, which means `fault(01, 0)` (R112, R114). -/
def Regs.illegalOp {c : Config} (r : Regs c) (op : BitVec 3) : Regs c := r.recordFault op 0b01#2 0b01#2

/-- `raise LenFault()`, which means `fault(10, 1)` (R113, R114). -/
def Regs.lenFault {c : Config} (r : Regs c) (op : BitVec 3) : Regs c := r.recordFault op 0b10#2 0b10#2

/-- An edge at which no command other than `NOP` is accepted: `RSP_VALID <- 0`, every other register unchanged
(R35, R95). -/
def Regs.idle {c : Config} (r : Regs c) : Regs c := { r with rspValid := false }

/-- The result sequence the host reads, `seq(res_bits, res_len)` (10_state.md R28, 44_stream.md R99). -/
def Regs.result {c : Config} (r : Regs c) : BitSeq := seqOf r.resBits.toNat r.resLen.toNat

end Sys2Proof.Machine
end

