-- ==== Sys2Proof/Machine/Encoder.lean ====
section
/-! DEFINITION. hamming_encoder (spec 42_encoder.md): placeholder insertion, parity, and the command `ENC`. -/

namespace Sys2Proof.Machine

/-- `enc_insert(d)`: a 0 inserted at each control position below the original length, ascending (R75). -/
def encInsert (W : Nat) (d : BitSeq) : BitSeq := (Q W d.length).foldl (fun s p => insertAt s p false) d

/-- `encode_block(d)` in the source's form (R77). -/
def encodeBlock (W : Nat) (d : BitSeq) : BitSeq :=
  let s := encInsert W d
  let S := computeSyndrome W s
  (Q W d.length).foldl (fun s p => setAt s p (S.bit p)) s

/-- The positions of `{1..N} \ Qe` for a data block of length `L`, ascending (30_encoding.md R60, R61). -/
def dataPositions (W L : Nat) : List Nat :=
  (positions (L + parityCount W L)).filter fun j => decide (j ∉ Q W L)

/-- `pos(t)`, the position of data bit `d[t]` in the code block (30_encoding.md R61). -/
def pos (W L t : Nat) : Nat := (dataPositions W L).getD (t - 1) 0

/-- The parity bit of `p` written with data indices: XOR over `t` with `pos(t)` outside `P` and `pos(t) & p != 0` of
`d[t]` (R78). -/
def parityOfData (W : Nat) (d : BitSeq) (p : Nat) : Bool :=
  xorAll (((positions d.length).filter fun t =>
    decide (pos W d.length t ∉ P W) && decide (pos W d.length t &&& p ≠ 0)).map (bitAt d))

/-- The fixed-buffer form: each position classified as parity or data, all parity trees at once (R76, R78). -/
def encodeParallel (W : Nat) (d : BitSeq) : BitSeq :=
  (positions (d.length + parityCount W d.length)).map fun j =>
    if j ∈ Q W d.length then parityOfData W d j
    else bitAt d ((dataPositions W d.length).idxOf j + 1)

/-- `ENC` on the registers (R80). -/
def Regs.enc {c : Config} (r : Regs c) (len bits : Nat) : Regs c :=
  if encLenLegal c len then r.putResult 0b001#3 (encodeBlock c.W (operand len bits))
  else r.lenFault 0b001#3

/-- `ENC` (R80). -/
def execEnc (len bits : Nat) (s : State) : Host.Outcome State Fault Refusal :=
  .next { s with regs := s.regs.enc len bits }

end Sys2Proof.Machine
end

