-- ==== Sys2Proof/Machine/Decoder.lean ====
section
/-! DEFINITION. hamming_syndrome_decoder (spec 43_decoder.md): detection, localization, repair, stripping, and the
commands `DEC` and `DECFIX`. -/

namespace Sys2Proof.Machine

/-- The mismatch set `M = { p in Q(N) : c[p] != S[p] }` of a received block (R86). -/
def mismatches (W : Nat) (c : BitSeq) : List Nat :=
  let S := computeSyndrome W c
  (Q W c.length).filter fun p => bitAt c p != S.bit p

/-- The repair: the bit at the localized position flipped when there is one, nothing otherwise (R88). -/
def repair (M : List Nat) (c : BitSeq) : BitSeq :=
  if flipApplied M c.length then flipAt c (localized M) else c

/-- `strip(c)`: the present control positions deleted, descending (R90). -/
def strip (W : Nat) (c : BitSeq) : BitSeq := (Q W c.length).reverse.foldl deleteAt c

/-- `DEC` on the registers (R92). -/
def Regs.dec {c : Config} (r : Regs c) (len bits : Nat) : Regs c :=
  if decLenLegal c len then r.putResult 0b010#3 (strip c.W (operand len bits))
  else r.lenFault 0b010#3

/-- `DECFIX` on the registers for a legal block `b` (R93). -/
def Regs.checkBlock {c : Config} (r : Regs c) (b : BitSeq) : Regs c :=
  let M := mismatches c.W b
  ((r.countBlock M b.length).putResult 0b011#3 (strip c.W (repair M b))).putCheck M b.length

/-- `DECFIX` on the registers (R93). -/
def Regs.decfix {c : Config} (r : Regs c) (len bits : Nat) : Regs c :=
  if decLenLegal c len then r.checkBlock (operand len bits)
  else r.lenFault 0b011#3

/-- `DEC` (R92). -/
def execDec (len bits : Nat) (s : State) : Host.Outcome State Fault Refusal :=
  .next { s with regs := s.regs.dec len bits }

/-- `DECFIX` (R93). -/
def execDecfix (len bits : Nat) (s : State) : Host.Outcome State Fault Refusal :=
  .next { s with regs := s.regs.decfix len bits }

end Sys2Proof.Machine
end

