-- ==== Sys2Proof/Machine/Control.lean ====
section
/-! DEFINITION. The commands `NOP` and `CLRSTAT` (spec 43_decoder.md R94, R95) and the reserved op codes
(60_exceptions.md R112). Each ignores `len` and `bits` (30_encoding.md R55, R56). -/

namespace Sys2Proof.Machine

/-- `CLRSTAT` on the registers (R94). -/
def Regs.clrstat {c : Config} (r : Regs c) : Regs c := r.clearCounters.putResult 0b100#3 []

/-- `NOP` (R95). -/
def execNop (_len _bits : Nat) (s : State) : Host.Outcome State Fault Refusal :=
  .next { s with regs := s.regs.idle }

/-- `CLRSTAT` (R94). -/
def execClrstat (_len _bits : Nat) (s : State) : Host.Outcome State Fault Refusal :=
  .next { s with regs := s.regs.clrstat }

/-- Reserved op code `101` (R112). -/
def execReserved101 (_len _bits : Nat) (s : State) : Host.Outcome State Fault Refusal :=
  .next { s with regs := s.regs.illegalOp 0b101#3 }

/-- Reserved op code `110` (R112). -/
def execReserved110 (_len _bits : Nat) (s : State) : Host.Outcome State Fault Refusal :=
  .next { s with regs := s.regs.illegalOp 0b110#3 }

/-- Reserved op code `111` (R112). -/
def execReserved111 (_len _bits : Nat) (s : State) : Host.Outcome State Fault Refusal :=
  .next { s with regs := s.regs.illegalOp 0b111#3 }

end Sys2Proof.Machine
end

