-- ==== Sys2Proof/Machine/Dispatch.lean ====
section
/-! DEFINITION. One command on a state: one arm per row of spec/opcode_table.json (30_encoding.md R54). -/

namespace Sys2Proof.Machine

/-- One accepted command, performed as one indivisible step (spec 20_memory.md R45). -/
def exec (i : Instr) (s : State) : Host.Outcome State Fault Refusal :=
  match i with
  | .nop len bits => Sys2Proof.Machine.execNop len bits s
  | .enc len bits => Sys2Proof.Machine.execEnc len bits s
  | .dec len bits => Sys2Proof.Machine.execDec len bits s
  | .decfix len bits => Sys2Proof.Machine.execDecfix len bits s
  | .clrstat len bits => Sys2Proof.Machine.execClrstat len bits s
  | .reserved101 len bits => Sys2Proof.Machine.execReserved101 len bits s
  | .reserved110 len bits => Sys2Proof.Machine.execReserved110 len bits s
  | .reserved111 len bits => Sys2Proof.Machine.execReserved111 len bits s

end Sys2Proof.Machine
end

