-- ==== Sys2Proof/Machine/Port.lean ====
section
/-! DEFINITION. The ports (spec 30_encoding.md R52): what a presented command is, how a command or a packed word is
presented, and the outputs. -/

namespace Sys2Proof.Machine

/-- The command on the port at one edge, the triple `(op, len, bits)` (R53). -/
def Cycle.instr {c : Config} (x : Cycle c) : Instr := decodeFields x.cmdOp x.cmdLen.toNat x.cmdBits.toNat

/-- The unit accepts a command "at a rising edge of `clk` at which `cmd_valid = 1` and `rst = 0`" (R53). -/
def Cycle.accepts {c : Config} (x : Cycle c) : Bool := x.cmdValid && !x.rst

/-- The edge at which the host presents command `i`, each field narrowed to its port. -/
def Cycle.ofInstr (c : Config) (i : Instr) : Cycle c where
  rst := false
  cmdValid := true
  cmdOp := BitVec.ofNat 3 i.opcode
  cmdLen := BitVec.ofNat c.LW i.len
  cmdBits := BitVec.ofNat c.NMAX i.bits

/-- The edge at which the host presents the packed command word `w` (R53); bits at and above `CW` have no wire. -/
def Cycle.ofWord (c : Config) (w : Nat) : Cycle c where
  rst := false
  cmdValid := true
  cmdOp := wordOp w
  cmdLen := BitVec.ofNat c.LW (wordLen c w)
  cmdBits := BitVec.ofNat c.NMAX (wordBits c w)

/-- The edge at which the host asserts `rst`; the command port is driven low. -/
def Cycle.assertReset (c : Config) : Cycle c where
  rst := true
  cmdValid := false
  cmdOp := 0
  cmdLen := 0
  cmdBits := 0

/-- The output ports (R52). -/
structure Outputs (c : Config) where
  cmd_ready : Bool
  rsp_valid : Bool
  res_op : BitVec 3
  res_len : BitVec c.LW
  res_bits : BitVec c.NMAX
  res_chk : Bool
  res_err : Bool
  res_pos : BitVec c.K
  res_mism : BitVec c.K
  res_range : Bool
  res_flt : BitVec 2
  status : BitVec 2
  cnt_ok : BitVec c.cntW
  cnt_err : BitVec c.cntW
  cnt_fix : BitVec c.cntW
deriving DecidableEq, Repr

/-- "All outputs are driven from the state registers of `10_state.md` rule R20, except `cmd_ready`, which is the
constant 1" (R52). -/
def Regs.outputs {c : Config} (r : Regs c) : Outputs c where
  cmd_ready := true
  rsp_valid := r.rspValid
  res_op := r.resOp
  res_len := r.resLen
  res_bits := r.resBits
  res_chk := r.resChk
  res_err := r.resErr
  res_pos := r.resPos
  res_mism := r.resMism
  res_range := r.resRange
  res_flt := r.resFlt
  status := r.status
  cnt_ok := r.cntOk
  cnt_err := r.cntErr
  cnt_fix := r.cntFix

end Sys2Proof.Machine
end

