-- ==== Sys2Proof/Machine/Edge.lean ====
section
/-! DEFINITION. The unit's step, with the configuration as its parameter (spec 10_state.md R19: "A model holds them as
parameters of the step, not as fields of the state"), and one rising edge of `clk` on the machine's State
(70_reset_and_hazards.md R122, R127, R131). -/

namespace Sys2Proof.Machine

/-- One accepted command on the registers of a unit of any configuration (30_encoding.md R54, 20_memory.md R45). -/
def Regs.perform {c : Config} (r : Regs c) : Instr → Regs c
  | .nop _ _ => r.idle
  | .enc len bits => r.enc len bits
  | .dec len bits => r.dec len bits
  | .decfix len bits => r.decfix len bits
  | .clrstat _ _ => r.clrstat
  | .reserved101 _ _ => r.illegalOp 0b101#3
  | .reserved110 _ _ => r.illegalOp 0b110#3
  | .reserved111 _ _ => r.illegalOp 0b111#3

/-- The step of the unit elaborated with configuration `c`: one rising edge of `clk` at which the ports hold `x`. `rst`
wins over a presented command (R122); a presented command is accepted and performed (R127); otherwise the edge is idle
(10_state.md R35). -/
def unitStep (c : Config) (r : Regs c) (x : Cycle c) : Regs c :=
  if x.rst then Regs.reset c
  else if x.accepts then r.perform x.instr
  else r.idle

/-- The edges `xs`, one after the other (20_memory.md R49). -/
def unitRun (c : Config) (r : Regs c) (xs : List (Cycle c)) : Regs c := xs.foldl (unitStep c) r

/-- The edge at which the ports hold `x`, on a state whose schedule is already past it; the same three cases, the command
performed by `exec`. -/
def clockEdge (x : Cycle Config.w11) (s : State) : Host.Outcome State Fault Refusal :=
  if x.rst then .next { s with regs := Regs.reset Config.w11 }
  else if x.accepts then exec x.instr s
  else .next { s with regs := s.regs.idle }

/-- An edge at which the host drives nothing: `rst = 0` and `cmd_valid = 0` (log entry 3). -/
def idleEdge (s : State) : Host.Outcome State Fault Refusal := .next { s with regs := s.regs.idle }

/-- The schedule of the port with the next edge driven by the packed word of the low `nbits` bits of `w`, in place of
what was scheduled for that edge (log entry 4). -/
def presentWord (c : Config) (port : List (Cycle c)) (nbits w : Nat) : List (Cycle c) :=
  Cycle.ofWord c (w % 2 ^ nbits) :: port.tail

end Sys2Proof.Machine
end

