-- ==== Sys2Proof/Machine/Step.lean ====
section
/-! DEFINITION. The step: one rising edge of `clk` (spec 70_reset_and_hazards.md R131: "treat each accepted command as
one step"; log entry 6). -/

namespace Sys2Proof.Machine

/-- One clock edge of the machine. -/
def step (s : State) : Host.Outcome State Fault Refusal :=
  match s.port with
  | [] => idleEdge s
  | x :: rest => clockEdge x { s with port := rest }

/-- `s` with the packed command word `w` on the command port at the next edge (log entry 4). -/
def State.withFetchWord (s : State) (nbits w : Nat) : State :=
  { s with port := presentWord Config.w11 s.port nbits w }

end Sys2Proof.Machine
end

