-- ==== Sys2Proof/Machine/Stream.lean ====
section
/-! DEFINITION. The host's command sequences (spec 44_stream.md R99 to R101; 30_encoding.md R63). The host is outside
the unit; these functions drive a unit of any configuration through its command port, one command per edge. -/

namespace Sys2Proof.Machine

/-- The chunks of a stream: `n` bits each, the last possibly shorter, none for an empty stream (R99 to R101). Chunk `k`
is `x[k*n + 1 .. min((k+1)*n, T)]`, for `k` in `0 .. ceil(T / n) - 1`. -/
def chunks (n : Nat) (x : BitSeq) : List BitSeq :=
  (List.range ((x.length + n - 1) / n)).map fun k => (x.drop (k * n)).take n

/-- The host issues one command: it is presented, and accepted, at one edge (log entry 10). -/
def Regs.issue {c : Config} (r : Regs c) (i : Instr) : Regs c := unitStep c r (Cycle.ofInstr c i)

/-- One command per chunk, the result sequences concatenated, first chunk first. -/
def issueChunks {c : Config} (mk : Nat → Nat → Instr) : List BitSeq → Regs c → BitSeq × Regs c
  | [], r => ([], r)
  | x :: xs, r =>
    let r' := r.issue (mk x.length (vecNat x))
    let later := issueChunks mk xs r'
    (r'.result ++ later.1, later.2)

/-- `ENCODE(x)` (R99): the encoded stream, and the unit after it. -/
def encodeStream {c : Config} (x : BitSeq) (r : Regs c) : BitSeq × Regs c := issueChunks .enc (chunks c.W x) r

/-- `DECODE(y, fix)` (R100): `CLRSTAT`, then one `DEC` or `DECFIX` per chunk. The counters are read from the unit after
it. -/
def decodeStream {c : Config} (fix : Bool) (y : BitSeq) (r : Regs c) : BitSeq × Regs c :=
  issueChunks (if fix then .decfix else .dec) (chunks c.NMAX y) (r.issue (.clrstat 0 0))

/-- Accepted commands performed one after the other (spec 20_memory.md R49). -/
def Regs.performAll {c : Config} (r : Regs c) (is : List Instr) : Regs c := is.foldl Regs.perform r

end Sys2Proof.Machine
end

