-- ==== Sys2Proof/Machine/Assembler.lean ====
section
/-! DEFINITION. The assembler forms and pseudo-commands of spec 30_encoding.md R62 to R64. A text is a list of
characters, first character first (20_memory.md R43). The grammar of blanks and of the numbers of `.cmd` is the model's
(log entry 11). -/

namespace Sys2Proof.Machine

/-- Why the assembler refuses a line. All are safe: nothing reaches the unit. -/
inductive AsmError where
  /-- "any character other than `0` and `1`" in a string (R62, 93_implementation_defined.md U1) -/
  | notBinary
  /-- "a string longer than `NMAX`" (R62) -/
  | stringTooLong
  /-- a number of `.cmd` that its field cannot hold (log entry 11) -/
  | fieldTooLarge
  /-- no form of R62 or R63 (log entry 11) -/
  | unknownForm
deriving DecidableEq, Repr

/-- A line: a form of R62, or a pseudo-command of R63 (the last three). -/
inductive AsmLine where
  | nop
  | enc (text : List Char)
  | dec (text : List Char)
  | decfix (text : List Char)
  | clrstat
  | cmd (op len bits : Nat)
  | encodeAll (text : List Char)
  | decodeAll (text : List Char)
  | decodeFixAll (text : List Char)
deriving DecidableEq, Repr

/-- The bits a string of `0` and `1` characters stands for, first character at position 1 (R43, R62). -/
def textBits : List Char → Except AsmError BitSeq
  | [] => .ok []
  | ch :: rest =>
    match textBits rest with
    | .error e => .error e
    | .ok bs => if ch = '0' then .ok (false :: bs) else if ch = '1' then .ok (true :: bs) else .error .notBinary

/-- A command whose operand is a bit sequence: `len = |s|`, `bits[t-1] = s[t]` (R62). -/
def ofBits (mk : Nat → Nat → Instr) (s : BitSeq) : Instr := mk s.length (vecNat s)

/-- `ENC`, `DEC` or `DECFIX` with a string: refused when not binary or longer than `NMAX` (R62). -/
def assembleText (c : Config) (mk : Nat → Nat → Instr) (text : List Char) : Except AsmError (List Instr) :=
  match textBits text with
  | .error e => .error e
  | .ok s => if s.length ≤ c.NMAX then .ok [ofBits mk s] else .error .stringTooLong

/-- A pseudo-command: one command per `n`-bit chunk of the string (R63). -/
def assembleChunks (n : Nat) (mk : Nat → Nat → Instr) (text : List Char) : Except AsmError (List Instr) :=
  match textBits text with
  | .error e => .error e
  | .ok s => .ok ((chunks n s).map (ofBits mk))

/-- A pseudo-command that decodes: `CLRSTAT` first, also for an empty string (R63). -/
def assembleDecode (n : Nat) (mk : Nat → Nat → Instr) (text : List Char) : Except AsmError (List Instr) :=
  match assembleChunks n mk text with
  | .error e => .error e
  | .ok is => .ok (.clrstat 0 0 :: is)

/-- The commands a line stands for (R62, R63). -/
def assemble (c : Config) : AsmLine → Except AsmError (List Instr)
  | .nop => .ok [.nop 0 0]
  | .enc s => assembleText c .enc s
  | .dec s => assembleText c .dec s
  | .decfix s => assembleText c .decfix s
  | .clrstat => .ok [.clrstat 0 0]
  | .cmd op len bits =>
    if op < 8 ∧ lenFits c len ∧ bitsFit c bits then .ok [decodeFields (BitVec.ofNat 3 op) len bits]
    else .error .fieldTooLarge
  | .encodeAll s => assembleChunks c.W .enc s
  | .decodeAll s => assembleDecode c.NMAX .dec s
  | .decodeFixAll s => assembleDecode c.NMAX .decfix s

/-- The packed words of a listing line (R64). -/
def assembleWords (c : Config) (l : AsmLine) : Except AsmError (List Nat) :=
  match assemble c l with
  | .error e => .error e
  | .ok is => .ok (is.map (encode c))

/-- A blank of a line. -/
def isBlank (ch : Char) : Bool := ch == ' ' || ch == '\t'

/-- A text without its leading and trailing blanks. -/
def trimBlanks (l : List Char) : List Char := ((l.dropWhile isBlank).reverse.dropWhile isBlank).reverse

/-- A text cut at its commas. -/
def splitCommas : List Char → List (List Char)
  | [] => [[]]
  | ch :: rest =>
    match splitCommas rest with
    | [] => [[ch]]
    | f :: fs => if ch = ',' then [] :: f :: fs else (ch :: f) :: fs

/-- The value of a digit in base `base`, 10 or 16. -/
def digitValue (base : Nat) (ch : Char) : Option Nat :=
  let n := ch.toNat
  let v := if 48 ≤ n ∧ n ≤ 57 then some (n - 48)
    else if 65 ≤ n ∧ n ≤ 70 then some (n - 55)
    else if 97 ≤ n ∧ n ≤ 102 then some (n - 87)
    else none
  match v with
  | none => none
  | some d => if d < base then some d else none

/-- A non-empty list of digits read in base `base`, most significant first. -/
def readDigits (base : Nat) (acc : Nat) : List Char → Option Nat
  | [] => none
  | [ch] =>
    match digitValue base ch with
    | none => none
    | some d => some (acc * base + d)
  | ch :: rest =>
    match digitValue base ch with
    | none => none
    | some d => readDigits base (acc * base + d) rest

/-- A number: decimal, or hexadecimal after `0x`. -/
def readNumber (l : List Char) : Option Nat :=
  match trimBlanks l with
  | '0' :: 'x' :: ds => readDigits 16 0 ds
  | ds => readDigits 10 0 ds

/-- A string in double quotes. -/
def readQuoted (l : List Char) : Option (List Char) :=
  match trimBlanks l with
  | '"' :: rest =>
    match rest.reverse with
    | '"' :: inner => some inner.reverse
    | _ => none
  | _ => none

/-- A line with a quoted operand. -/
def quotedForm (mk : List Char → AsmLine) (l : List Char) : Except AsmError (Option AsmLine) :=
  match readQuoted l with
  | some s => .ok (some (mk s))
  | none => .error .unknownForm

/-- A `.cmd` line. -/
def rawForm (l : List Char) : Except AsmError (Option AsmLine) :=
  match (splitCommas l).map readNumber with
  | [some op, some len, some bits] => .ok (some (.cmd op len bits))
  | _ => .error .unknownForm

/-- A form that takes no operand. -/
def bareForm (line : AsmLine) (l : List Char) : Except AsmError (Option AsmLine) :=
  if trimBlanks l = [] then .ok (some line) else .error .unknownForm

/-- One line of text: "One command goes on each line, and `;` starts a comment" (R62). A line of blanks or comment alone
holds no command. -/
def parseLine (text : List Char) : Except AsmError (Option AsmLine) :=
  let l := trimBlanks (text.takeWhile (· ≠ ';'))
  let word := l.takeWhile (fun ch => !isBlank ch)
  let rest := l.dropWhile (fun ch => !isBlank ch)
  if l = [] then .ok none
  else if word = ['N', 'O', 'P'] then bareForm .nop rest
  else if word = ['C', 'L', 'R', 'S', 'T', 'A', 'T'] then bareForm .clrstat rest
  else if word = ['E', 'N', 'C'] then quotedForm .enc rest
  else if word = ['D', 'E', 'C'] then quotedForm .dec rest
  else if word = ['D', 'E', 'C', 'F', 'I', 'X'] then quotedForm .decfix rest
  else if word = ['.', 'c', 'm', 'd'] then rawForm rest
  else if word = ['E', 'N', 'C', 'O', 'D', 'E'] then quotedForm .encodeAll rest
  else if word = ['D', 'E', 'C', 'O', 'D', 'E'] then quotedForm .decodeAll rest
  else if word = ['D', 'E', 'C', 'O', 'D', 'E', 'F', 'I', 'X'] then quotedForm .decodeFixAll rest
  else .error .unknownForm

end Sys2Proof.Machine
end

