-- ==== Sys2Proof/Machine/Boot.lean ====
section
/-! DEFINITION. A unit from power-on (spec 70_reset_and_hazards.md R125, R126; 93_implementation_defined.md U10). Before
the first reset edge "any register may hold any value" and nothing may be claimed, so the model gives such a unit no
register contents and no outputs. `core` starts at the reset state, as R125 says. -/

namespace Sys2Proof.Machine

/-- A unit of configuration `c` since power-on. -/
inductive Boot (c : Config) where
  /-- no reset edge yet: nothing is known of the registers (R125) -/
  | unreset
  /-- after the first reset edge -/
  | running (r : Regs c)
deriving DecidableEq, Repr

/-- One rising edge since power-on: a unit not yet reset becomes known at an edge with `rst = 1` alone (R122, R126);
after that the unit's rules hold. -/
def Boot.edge {c : Config} : Boot c → Cycle c → Boot c
  | .unreset, x => if x.rst then .running (Regs.reset c) else .unreset
  | .running r, x => .running (unitStep c r x)

/-- The edges `xs`, one after the other. -/
def Boot.run {c : Config} (b : Boot c) (xs : List (Cycle c)) : Boot c := xs.foldl Boot.edge b

/-- What the model says of the outputs: nothing before the first reset edge (R125). -/
def Boot.outputs {c : Config} : Boot c → Option (Outputs c)
  | .unreset => none
  | .running r => some r.outputs

end Sys2Proof.Machine
end

