-- ==== Sys2Proof/Safety.lean ====
section
/-! DEFINITION. What the claims mean by a good state and a safe run: the legal contents of the registers, and events
counted along a sequence of commands. -/

namespace Sys2Proof.Machine

/-- The result record holds a fault (spec 60_exceptions.md R111). -/
abbrev Regs.faulted {c : Config} (r : Regs c) : Prop := r.resFlt ≠ 0

/-- `RES_LEN` and `RES_BITS` agree: the length fits the bus and every bit at or above it is 0 (10_state.md R27, R28). -/
abbrev Regs.lengthOk {c : Config} (r : Regs c) : Prop :=
  r.resLen.toNat ≤ c.NMAX ∧ r.resBits.toNat < 2 ^ r.resLen.toNat

/-- The check fields agree with each other and with the command that wrote them (10_state.md R29 to R33,
43_decoder.md R97). -/
abbrev Regs.checkOk {c : Config} (r : Regs c) : Prop :=
  (r.resChk = true ↔ r.resOp = 3 ∧ r.resFlt = 0) ∧
  (r.resErr = true → r.resChk = true) ∧
  (r.resErr = true ↔ r.resPos ≠ 0) ∧
  r.resMism = r.resPos ∧
  (r.resRange = true → r.resErr = true)

/-- The fault code is a legal one, belongs to the command in `RES_OP`, and left its sticky bit and an empty record
(10_state.md R25, R34; 60_exceptions.md R111 to R114). -/
abbrev Regs.faultOk {c : Config} (r : Regs c) : Prop :=
  r.resFlt ≠ 3 ∧
  (r.resFlt = 1 ↔ 5 ≤ r.resOp.toNat) ∧
  (r.resFlt = 2 → 1 ≤ r.resOp.toNat ∧ r.resOp.toNat ≤ 3) ∧
  (r.resFlt = 1 → r.status.getLsbD 0 = true) ∧
  (r.resFlt = 2 → r.status.getLsbD 1 = true) ∧
  (r.resFlt ≠ 0 → r.resLen = 0)

/-- What the result length says about the command in `RES_OP` (10_state.md R26, R27; 43_decoder.md R91): nothing before
a command has completed or after `CLRSTAT`, at least one bit after `ENC`, `DEC`, `DECFIX`, at most `W` bits after a
decode. -/
abbrev Regs.opOk {c : Config} (r : Regs c) : Prop :=
  (r.resOp = 0 → r.resLen = 0 ∧ r.rspValid = false) ∧
  (r.resOp = 4 → r.resLen = 0) ∧
  (1 ≤ r.resOp.toNat ∧ r.resOp.toNat ≤ 3 ∧ r.resFlt = 0 → 1 ≤ r.resLen.toNat) ∧
  (r.resOp = 2 ∨ r.resOp = 3 → r.resLen.toNat ≤ c.W)

/-- The register contents a run from reset can show: every relation between registers that the rules state. -/
abbrev Regs.Inv {c : Config} (r : Regs c) : Prop := r.lengthOk ∧ r.checkOk ∧ r.faultOk ∧ r.opOk

/-- The invariant of the machine's registers. -/
abbrev State.Inv (s : State) : Prop := s.regs.Inv

/-- A `DECFIX` the unit accepts without LEN_FAULT (43_decoder.md R98). -/
def isCheckedDecode (c : Config) : Instr → Bool
  | .decfix len _ => decLenLegal c len
  | .nop _ _ | .enc _ _ | .dec _ _ | .clrstat _ _ => false
  | .reserved101 _ _ | .reserved110 _ _ | .reserved111 _ _ => false

/-- A `DECFIX` accepted without LEN_FAULT whose localized position lies beyond the block, so that it ends with
`RES_RANGE = 1` (43_decoder.md R88, R98). -/
def isOutOfRangeDecode (c : Config) : Instr → Bool
  | .decfix len bits => decLenLegal c len && outOfRange (mismatches c.W (operand len bits)) len
  | .nop _ _ | .enc _ _ | .dec _ _ | .clrstat _ _ => false
  | .reserved101 _ _ | .reserved110 _ _ | .reserved111 _ _ => false

/-- `CLRSTAT`, the one command that clears the counters (10_state.md R24). -/
def isClear : Instr → Bool
  | .clrstat _ _ => true
  | .nop _ _ | .enc _ _ | .dec _ _ | .decfix _ _ => false
  | .reserved101 _ _ | .reserved110 _ _ | .reserved111 _ _ => false

/-- The op code of a reserved command (30_encoding.md R57). -/
def isReserved : Instr → Bool
  | .reserved101 _ _ | .reserved110 _ _ | .reserved111 _ _ => true
  | .nop _ _ | .enc _ _ | .dec _ _ | .decfix _ _ | .clrstat _ _ => false

/-- The fault a command raises (60_exceptions.md R111 to R113): 01 for a reserved op code, 10 for a length outside the
legal range of `ENC`, `DEC` or `DECFIX`, 00 for none. -/
def faultCode (c : Config) : Instr → BitVec 2
  | .nop _ _ | .clrstat _ _ => 0b00#2
  | .enc len _ => if len = 0 ∨ c.W < len then 0b10#2 else 0b00#2
  | .dec len _ | .decfix len _ => if len = 0 ∨ c.NMAX < len then 0b10#2 else 0b00#2
  | .reserved101 _ _ | .reserved110 _ _ | .reserved111 _ _ => 0b01#2

/-- The three counters are equal. -/
abbrev Regs.sameCounters {c : Config} (r r' : Regs c) : Prop :=
  r'.cntOk = r.cntOk ∧ r'.cntErr = r.cntErr ∧ r'.cntFix = r.cntFix

/-- The record of a command that ran no check: its op code, the result sequence `out` as the host reads it with every
bus bit above it 0, the check fields 0, the fault code, and `RSP_VALID = 1` (42_encoder.md R80, 43_decoder.md R92, R94,
60_exceptions.md R114). -/
abbrev Regs.plainRecord {c : Config} (r : Regs c) (op : BitVec 3) (out : BitSeq) (flt : BitVec 2) : Prop :=
  r.resOp = op ∧ r.resLen.toNat = out.length ∧ r.result = out ∧ r.resBits.toNat < 2 ^ out.length ∧
  r.resChk = false ∧ r.resErr = false ∧ r.resPos = 0 ∧ r.resMism = 0 ∧ r.resRange = false ∧
  r.resFlt = flt ∧ r.rspValid = true

/-- The record of a `DECFIX` that found mismatch set `M` in a block of length `n` and returned `out` (43_decoder.md
R93). -/
abbrev Regs.checkedRecord {c : Config} (r : Regs c) (M : List Nat) (n : Nat) (out : BitSeq) : Prop :=
  r.resOp = 3 ∧ r.resLen.toNat = out.length ∧ r.result = out ∧ r.resBits.toNat < 2 ^ out.length ∧
  r.resChk = true ∧ (r.resErr = true ↔ M ≠ []) ∧ r.resPos.toNat = M.sum ∧
  (∀ k, k < c.K → (r.resMism.getLsbD k = true ↔ 2 ^ k ∈ M)) ∧
  (r.resRange = true ↔ M ≠ [] ∧ n < M.sum) ∧ r.resFlt = 0 ∧ r.rspValid = true

/-- The registers count one block as correct: `CNT_OK` plus 1 (43_decoder.md R89). -/
abbrev Regs.countsOk {c : Config} (r r' : Regs c) : Prop :=
  r'.cntOk = r.cntOk + 1 ∧ r'.cntErr = r.cntErr ∧ r'.cntFix = r.cntFix

/-- The registers count one block as errored and repaired: `CNT_ERR` and `CNT_FIX` plus 1 (43_decoder.md R89). -/
abbrev Regs.countsRepair {c : Config} (r r' : Regs c) : Prop :=
  r'.cntOk = r.cntOk ∧ r'.cntErr = r.cntErr + 1 ∧ r'.cntFix = r.cntFix + 1

/-- The result record (10_state.md section 5), without the handshake bit, is unchanged. -/
abbrev Regs.sameRecord {c : Config} (r r' : Regs c) : Prop :=
  r'.resOp = r.resOp ∧ r'.resLen = r.resLen ∧ r'.resBits = r.resBits ∧ r'.resChk = r.resChk ∧ r'.resErr = r.resErr ∧
  r'.resPos = r.resPos ∧ r'.resMism = r.resMism ∧ r'.resRange = r.resRange ∧ r'.resFlt = r.resFlt

/-- A single error at position `j` of a received block of length `n` is corrected (44_stream.md R104): `j` is a present
control position, or it is no control position and its decomposition lies in the present control set. -/
abbrev correctable (W n j : Nat) : Prop := j ∈ Q W n ∨ (j ∉ P W ∧ ∀ p ∈ pexp j, p ∈ Q W n)

/-- `W` is a power of two, `1 = 2^0` among them (44_stream.md R105). -/
abbrev powerOfTwo (W : Nat) : Prop := ∃ k, W = 2 ^ k

/-- `L_last`, the length of the last chunk of a payload of `T` bits, `T >= 1` (44_stream.md R106). -/
def lastChunkLen (W T : Nat) : Nat := T - W * ((T - 1) / W)

/-- The mismatch set of a received block written with the parity trees (43_decoder.md R84, R86). -/
def treeMismatches (W : Nat) (b : BitSeq) : List Nat :=
  (Q W b.length).filter fun p => bitAt b p != parityTree W b p

/-- The bits at the positions of `{1..N} \ Q(N)`, in increasing position order (43_decoder.md R90). -/
def uncontrolledBits (W : Nat) (b : BitSeq) : BitSeq :=
  ((positions b.length).filter fun j => decide (j ∉ Q W b.length)).map (bitAt b)

end Sys2Proof.Machine
end

