-- ==== Sys2Proof/Certificates/Slice0/Obligations.lean ====
section
/-! DEFINITION. The statements for the provers. Statements about the unit hold of every configuration `c`, so of every
word length `W >= 1` and counter width: `Regs.perform` is one accepted command and `unitStep c` the unit's step, with the
configuration as its parameter. Statements about `exec` and `step` are about the machine behind the host's interface, the
unit of configuration `Config.w11` (log entry 2). Register contents `r : Regs c` are those of a unit after its first reset
edge; of a unit before it nothing is stated but BeforeTheFirstResetNothingIsKnown (70_reset_and_hazards.md R125, log
entry 12). -/

open Sys2Proof Sys2Proof.Machine

/-! ### Commands and their words -/

/-- Words written out from the encodings of 30_encoding.md R53 and R54 decode to their commands (`W = 11`): op in bits
2..0, len in bits 6..3, bits from bit 7 up. That `2^22`, a number wider than a command word, is refused is the model's
inference (log entry 5). -/
def Obligations.DecodeSpelledWords : Prop :=
  decodeWord Config.w11 0b000000000000000_0000_000 = .ok (.nop 0 0) ∧
  decodeWord Config.w11 0b000010111001101_1011_001 = .ok (.enc 11 0b10111001101) ∧
  decodeWord Config.w11 0b101110001001111_1111_010 = .ok (.dec 15 0b101110001001111) ∧
  decodeWord Config.w11 0b101110001101111_1111_011 = .ok (.decfix 15 0b101110001101111) ∧
  decodeWord Config.w11 0b000000100100011_1001_100 = .ok (.clrstat 9 0b100100011) ∧
  decodeWord Config.w11 0b000000000000000_0000_101 = .ok (.reserved101 0 0) ∧
  decodeWord Config.w11 0b000000000000001_0000_110 = .ok (.reserved110 0 1) ∧
  decodeWord Config.w11 0b111111111111111_1111_111 = .ok (.reserved111 15 0x7FFF) ∧
  decodeWord Config.w11 (2 ^ 22) = .error .widerThanCommandWord

/-- Decoding the packed word of a command gives the command back, with every operand value its field can hold, under
every configuration (30_encoding.md R53, R54). -/
def Obligations.DecodeOfEncode : Prop :=
  ∀ (c : Config) (i : Instr), i.wf c = true → encode c i < 2 ^ c.CW ∧ decodeWord c (encode c i) = .ok i

/-- Every `CW`-bit word spells exactly one command, and encoding that command gives the word back (30_encoding.md R58,
R59). -/
def Obligations.EveryWordSpellsOneCommand : Prop :=
  ∀ (c : Config) (w : Nat), w < 2 ^ c.CW →
    ∃ i, i.wf c = true ∧ decodeWord c w = .ok i ∧ encode c i = w ∧ ∀ j, j.wf c = true → encode c j = w → j = i

/-! ### The clock edge -/

/-- A step at which the port holds an accepted command performs the decoded command and moves past that edge of the
schedule; nothing else is added. Said of a presented command, of a packed word, and of `withFetchWord`, and of the step
of a unit of any configuration (30_encoding.md R53; 70_reset_and_hazards.md R127). That `withFetchWord` presents its word
at the next edge in place of what was scheduled for it is the model's inference (log entry 4). -/
def Obligations.StepRunsTheDecodedCommand : Prop :=
  (∀ (r : Regs Config.w11) (p : List (Cycle Config.w11)),
    (∀ x : Cycle Config.w11, x.cmdValid = true → x.rst = false →
      step ⟨r, x :: p⟩ = exec (decodeFields x.cmdOp x.cmdLen.toNat x.cmdBits.toNat) ⟨r, p⟩) ∧
    (∀ i : Instr, i.wf Config.w11 = true → step ⟨r, Cycle.ofInstr Config.w11 i :: p⟩ = exec i ⟨r, p⟩) ∧
    (∀ (w : Nat) (i : Instr), decodeWord Config.w11 w = .ok i →
      step ⟨r, Cycle.ofWord Config.w11 w :: p⟩ = exec i ⟨r, p⟩) ∧
    (∀ (nbits w : Nat) (i : Instr), w < 2 ^ nbits → decodeWord Config.w11 w = .ok i →
      step ((⟨r, p⟩ : State).withFetchWord nbits w) = exec i ⟨r, p.tail⟩)) ∧
  (∀ (c : Config) (r : Regs c),
    (∀ x : Cycle c, x.cmdValid = true → x.rst = false →
      unitStep c r x = r.perform (decodeFields x.cmdOp x.cmdLen.toNat x.cmdBits.toNat)) ∧
    (∀ i : Instr, i.wf c = true → unitStep c r (Cycle.ofInstr c i) = r.perform i) ∧
    (∀ (w : Nat) (i : Instr), decodeWord c w = .ok i → unitStep c r (Cycle.ofWord c w) = r.perform i))

/-- At an edge with `rst = 1` every register takes its reset value, and a command presented at that edge has no effect
(70_reset_and_hazards.md R122, R123). -/
def Obligations.ResetEdgeWinsOverCommand : Prop :=
  (∀ (c : Config) (r : Regs c) (x : Cycle c), x.rst = true → unitStep c r x = Regs.reset c) ∧
  (∀ (r : Regs Config.w11) (x : Cycle Config.w11) (p : List (Cycle Config.w11)), x.rst = true →
    step ⟨r, x :: p⟩ = .next ⟨Regs.reset Config.w11, p⟩)

/-- After reset every register holds 0 (10_state.md R39). -/
def Obligations.EveryRegisterIsZeroAfterReset : Prop :=
  ∀ c : Config, (Regs.reset c).cntOk = 0 ∧ (Regs.reset c).cntErr = 0 ∧ (Regs.reset c).cntFix = 0 ∧
    (Regs.reset c).status = 0 ∧ (Regs.reset c).resOp = 0 ∧ (Regs.reset c).resLen = 0 ∧ (Regs.reset c).resBits = 0 ∧
    (Regs.reset c).resChk = false ∧ (Regs.reset c).resErr = false ∧ (Regs.reset c).resRange = false ∧
    (Regs.reset c).resPos = 0 ∧ (Regs.reset c).resMism = 0 ∧ (Regs.reset c).resFlt = 0 ∧
    (Regs.reset c).rspValid = false

/-- Before the first reset edge nothing is known of a unit: no sequence of edges without `rst` gives it outputs, whatever
commands they present. The first edge with `rst = 1` gives it the reset registers, whatever came before, and from there
the unit's step applies (70_reset_and_hazards.md R122, R125, R126). -/
def Obligations.BeforeTheFirstResetNothingIsKnown : Prop :=
  ∀ (c : Config) (xs : List (Cycle c)), (∀ x ∈ xs, x.rst = false) →
    ((Boot.unreset : Boot c).run xs).outputs = none ∧
    ∀ (x : Cycle c) (ys : List (Cycle c)), x.rst = true →
      (Boot.unreset : Boot c).run (xs ++ x :: ys) = .running (unitRun c (Regs.reset c) ys)

/-- Every step answers a next state, so no command and no fault stops the unit, and it is the parameterised step of the
unit of configuration `Config.w11`, with one edge of the schedule used up (10_state.md R19; 60_exceptions.md R116). At an
edge beyond the schedule the host presents nothing, which is the model's choice (log entry 3): RSP_VALID becomes 0 and
the record, the counters and STATUS are unchanged. -/
def Obligations.EveryStepIsOneEdgeOfTheUnit : Prop :=
  (∀ (r : Regs Config.w11) (x : Cycle Config.w11) (p : List (Cycle Config.w11)),
    step ⟨r, x :: p⟩ = .next ⟨unitStep Config.w11 r x, p⟩) ∧
  (∀ r : Regs Config.w11, step ⟨r, []⟩ = .next ⟨{ r with rspValid := false }, []⟩)

/-- `RSP_VALID` is 1 after exactly those edges that accepted a command other than `NOP`; after any other edge without
reset, the result record, the counters and `STATUS` hold their values (10_state.md R35). -/
def Obligations.RspValidMarksNewRecord : Prop :=
  ∀ (c : Config) (r : Regs c) (x : Cycle c),
    ((unitStep c r x).rspValid = true ↔ x.cmdValid = true ∧ x.rst = false ∧ x.cmdOp ≠ 0) ∧
    (x.rst = false → ¬(x.cmdValid = true ∧ x.cmdOp ≠ 0) →
      r.sameRecord (unitStep c r x) ∧ r.sameCounters (unitStep c r x) ∧ (unitStep c r x).status = r.status)

/-- The registers' invariant holds after reset, under every configuration. -/
def Obligations.InvariantHoldsAtReset : Prop := (∀ c : Config, (Regs.reset c).Inv) ∧ State.reset.Inv

/-- Every step keeps the registers' invariant: the length fits and no bit stands above it, the check fields agree with
each other, the fault code is legal and its sticky bit is set, and the length suits the command (10_state.md R25 to R34;
43_decoder.md R91, R97; 60_exceptions.md R111). Said of the step of every configuration, and of `step`. -/
def Obligations.EveryStepKeepsTheInvariant : Prop :=
  (∀ (c : Config) (r : Regs c) (x : Cycle c), r.Inv → (unitStep c r x).Inv) ∧
  (∀ s t : State, s.Inv → step s = .next t → t.Inv)

/-- No step without reset clears a `STATUS` bit (10_state.md R25; 60_exceptions.md R117). Said of the step of every
configuration, and of `step`, also at an edge beyond the schedule, which the model takes to have `rst = 0` (log
entry 3). -/
def Obligations.StatusBitsAreSticky : Prop :=
  (∀ (c : Config) (r : Regs c) (x : Cycle c) (k : Nat), x.rst = false →
    r.status.getLsbD k = true → (unitStep c r x).status.getLsbD k = true) ∧
  (∀ (s t : State) (k : Nat), (∀ x rest, s.port = x :: rest → x.rst = false) → step s = .next t →
    s.regs.status.getLsbD k = true → t.regs.status.getLsbD k = true)

/-! ### The commands: results and completion -/

/-- `NOP` completes and clears `RSP_VALID` alone, whatever its operands, exactly as a cycle without a command does
(43_decoder.md R95). -/
def Obligations.NopOnlyClearsRspValid : Prop :=
  (∀ (s : State) (len bits : Nat),
    exec (.nop len bits) s = .next { s with regs := { s.regs with rspValid := false } }) ∧
  (∀ (c : Config) (r : Regs c) (len bits : Nat),
    r.perform (.nop len bits) = { r with rspValid := false } ∧
    ∀ x : Cycle c, x.rst = false → x.cmdValid = false → unitStep c r x = r.perform (.nop len bits))

/-- `ENC` with a legal length completes: the record holds the code block of the data block, the counters and `STATUS`
are unchanged. With any other length it records LEN_FAULT and nothing else (42_encoder.md R80). -/
def Obligations.EncWritesTheCodeBlock : Prop :=
  (∀ (s : State) (L bits : Nat),
    exec (.enc L bits) s = .next { s with regs := s.regs.perform (.enc L bits) }) ∧
  (∀ (c : Config) (r : Regs c) (L bits : Nat),
    let r' := r.perform (.enc L bits)
    r.sameCounters r' ∧
    (1 ≤ L → L ≤ c.W →
      r'.plainRecord 1 (encodeBlock c.W (seqOf bits L)) 0 ∧ r'.resLen.toNat = L + parityCount c.W L ∧
      r'.status = r.status) ∧
    (L = 0 ∨ c.W < L → r'.plainRecord 1 [] 2 ∧ r'.status = r.status ||| 2))

/-- `DEC` with a legal length completes: the record holds the bits at the positions that are no present control
position, and nothing is checked or counted. With any other length it records LEN_FAULT and nothing else
(43_decoder.md R92). -/
def Obligations.DecStripsControlBits : Prop :=
  (∀ (s : State) (N bits : Nat),
    exec (.dec N bits) s = .next { s with regs := s.regs.perform (.dec N bits) }) ∧
  (∀ (c : Config) (r : Regs c) (N bits : Nat),
    let r' := r.perform (.dec N bits)
    r.sameCounters r' ∧
    (1 ≤ N → N ≤ c.NMAX → r'.plainRecord 2 (uncontrolledBits c.W (seqOf bits N)) 0 ∧ r'.status = r.status) ∧
    (N = 0 ∨ c.NMAX < N → r'.plainRecord 2 [] 2 ∧ r'.status = r.status ||| 2))

/-- `DECFIX` with a legal length completes: it flips the bit at the sum of the mismatching control positions when that
position lies in the block, strips, reports the check and counts. With any other length it records LEN_FAULT and no
counter changes (43_decoder.md R93). The mismatches are those of the parity trees (R84). -/
def Obligations.DecfixChecksRepairsAndCounts : Prop :=
  (∀ (s : State) (N bits : Nat),
    exec (.decfix N bits) s = .next { s with regs := s.regs.perform (.decfix N bits) }) ∧
  (∀ (c : Config) (r : Regs c) (N bits : Nat),
    let r' := r.perform (.decfix N bits)
    (1 ≤ N → N ≤ c.NMAX →
      let b := seqOf bits N
      let M := treeMismatches c.W b
      let b' := if M ≠ [] ∧ M.sum ≤ N then flipAt b M.sum else b
      r'.checkedRecord M N (uncontrolledBits c.W b') ∧ r'.status = r.status ∧
      (M = [] → r.countsOk r') ∧
      (M ≠ [] → M.sum ≤ N → r.countsRepair r') ∧
      (M ≠ [] → N < M.sum → r'.cntOk = r.cntOk ∧ r'.cntErr = r.cntErr + 1 ∧ r'.cntFix = r.cntFix)) ∧
    (N = 0 ∨ c.NMAX < N → r'.plainRecord 3 [] 2 ∧ r.sameCounters r' ∧ r'.status = r.status ||| 2))

/-- `CLRSTAT` completes, whatever its operands: the counters become 0, the record is `CLRSTAT`'s, `STATUS` is unchanged
(43_decoder.md R94). -/
def Obligations.ClrstatClearsTheCounters : Prop :=
  (∀ (s : State) (len bits : Nat),
    exec (.clrstat len bits) s = .next { s with regs := s.regs.perform (.clrstat len bits) }) ∧
  (∀ (c : Config) (r : Regs c) (len bits : Nat),
    let r' := r.perform (.clrstat len bits)
    r'.plainRecord 4 [] 0 ∧ r'.cntOk = 0 ∧ r'.cntErr = 0 ∧ r'.cntFix = 0 ∧ r'.status = r.status)

/-- A reserved op code completes, whatever its operands: it records ILLEGAL_OP with its own op code and does nothing
else (60_exceptions.md R112, R114). -/
def Obligations.ReservedOpsRecordIllegalOp : Prop :=
  (∀ (s : State) (len bits : Nat),
    exec (.reserved101 len bits) s = .next { s with regs := s.regs.perform (.reserved101 len bits) } ∧
    exec (.reserved110 len bits) s = .next { s with regs := s.regs.perform (.reserved110 len bits) } ∧
    exec (.reserved111 len bits) s = .next { s with regs := s.regs.perform (.reserved111 len bits) }) ∧
  (∀ (c : Config) (r : Regs c) (len bits : Nat) (i : Instr) (op : BitVec 3),
    (i = .reserved101 len bits ∧ op = 0b101#3 ∨ i = .reserved110 len bits ∧ op = 0b110#3 ∨
      i = .reserved111 len bits ∧ op = 0b111#3) →
    (r.perform i).plainRecord op [] 1 ∧ r.sameCounters (r.perform i) ∧
      (r.perform i).status.getLsbD 0 = true ∧ (r.perform i).status.getLsbD 1 = r.status.getLsbD 1)

/-- The two faults and no other: a command whose fault code is not 00 writes the fault record, sets its own `STATUS`
bit, and does nothing else; every other command leaves `STATUS` alone and writes the code 00, or, as `NOP`, leaves the
code alone (60_exceptions.md R111, R113, R114). -/
def Obligations.FaultsAreRaisedByBadOpsAndLengthsOnly : Prop :=
  (∀ (s : State) (i : Instr), exec i s = .next { s with regs := s.regs.perform i }) ∧
  (∀ (c : Config) (r : Regs c) (i : Instr),
    let r' := r.perform i
    (faultCode c i ≠ 0 →
      r'.plainRecord (BitVec.ofNat 3 i.opcode) [] (faultCode c i) ∧ r.sameCounters r' ∧
      (r'.status.getLsbD 0 = true ↔ r.status.getLsbD 0 = true ∨ faultCode c i = 1) ∧
      (r'.status.getLsbD 1 = true ↔ r.status.getLsbD 1 = true ∨ faultCode c i = 2)) ∧
    (faultCode c i = 0 → r'.status = r.status ∧
      (i.opcode ≠ 0 → r'.resFlt = 0) ∧ (i.opcode = 0 → r'.resFlt = r.resFlt)))

/-! ### Frames -/

/-- What `ENC` and `DEC` leave alone, with any operands: the rest of the schedule, the counters, the ILLEGAL_OP bit, and
all of `STATUS` when the length is legal (42_encoder.md R80, 43_decoder.md R92). Said of `exec`, and of the command under
every configuration. -/
def Obligations.FrameOfEncAndDec : Prop :=
  (∀ (s t : State) (len bits : Nat) (i : Instr), (i = .enc len bits ∨ i = .dec len bits) → exec i s = .next t →
    t.port = s.port ∧ s.regs.sameCounters t.regs ∧ t.regs.status.getLsbD 0 = s.regs.status.getLsbD 0 ∧
    (i = .enc len bits → 1 ≤ len → len ≤ Config.w11.W → t.regs.status = s.regs.status) ∧
    (i = .dec len bits → 1 ≤ len → len ≤ Config.w11.NMAX → t.regs.status = s.regs.status)) ∧
  (∀ (c : Config) (r : Regs c) (len bits : Nat) (i : Instr), (i = .enc len bits ∨ i = .dec len bits) →
    r.sameCounters (r.perform i) ∧ (r.perform i).status.getLsbD 0 = r.status.getLsbD 0 ∧
    (i = .enc len bits → 1 ≤ len → len ≤ c.W → (r.perform i).status = r.status) ∧
    (i = .dec len bits → 1 ≤ len → len ≤ c.NMAX → (r.perform i).status = r.status))

/-- What `DECFIX` leaves alone, with any operands: the rest of the schedule, the ILLEGAL_OP bit; all of `STATUS` when the
length is legal; the counters when it is not; the error counters when no mismatch is found, the correct-block counter
when one is, and the fix counter when the localized position lies beyond the block (10_state.md R23; 43_decoder.md R88,
R89, R93). Said of `exec`, and of the command under every configuration. -/
def Obligations.FrameOfDecfix : Prop :=
  (∀ (s t : State) (len bits : Nat), exec (.decfix len bits) s = .next t →
    t.port = s.port ∧ t.regs.status.getLsbD 0 = s.regs.status.getLsbD 0 ∧
    (1 ≤ len → len ≤ Config.w11.NMAX → t.regs.status = s.regs.status) ∧
    (len = 0 ∨ Config.w11.NMAX < len → s.regs.sameCounters t.regs) ∧
    (t.regs.resErr = false → t.regs.cntErr = s.regs.cntErr ∧ t.regs.cntFix = s.regs.cntFix) ∧
    (t.regs.resErr = true → t.regs.cntOk = s.regs.cntOk) ∧
    (t.regs.resRange = true → t.regs.cntFix = s.regs.cntFix)) ∧
  (∀ (c : Config) (r : Regs c) (len bits : Nat),
    let r' := r.perform (.decfix len bits)
    r'.status.getLsbD 0 = r.status.getLsbD 0 ∧
    (1 ≤ len → len ≤ c.NMAX → r'.status = r.status) ∧
    (len = 0 ∨ c.NMAX < len → r.sameCounters r') ∧
    (r'.resErr = false → r'.cntErr = r.cntErr ∧ r'.cntFix = r.cntFix) ∧
    (r'.resErr = true → r'.cntOk = r.cntOk) ∧
    (r'.resRange = true → r'.cntFix = r.cntFix))

/-- What `NOP`, `CLRSTAT` and the reserved op codes leave alone: the rest of the schedule always; every register but
`RSP_VALID` for `NOP`; `STATUS` for `CLRSTAT`; the counters and the LEN_FAULT bit for a reserved op code (43_decoder.md
R94, R95; 60_exceptions.md R114). Said of `exec`, and of the command under every configuration. -/
def Obligations.FrameOfControlCommands : Prop :=
  (∀ (s t : State) (len bits : Nat) (i : Instr),
    (i = .nop len bits ∨ i = .clrstat len bits ∨ i = .reserved101 len bits ∨ i = .reserved110 len bits ∨
      i = .reserved111 len bits) → exec i s = .next t →
    t.port = s.port ∧
    (i = .nop len bits →
      s.regs.sameRecord t.regs ∧ s.regs.sameCounters t.regs ∧ t.regs.status = s.regs.status) ∧
    (i = .clrstat len bits → t.regs.status = s.regs.status) ∧
    (isReserved i = true →
      s.regs.sameCounters t.regs ∧ t.regs.status.getLsbD 1 = s.regs.status.getLsbD 1)) ∧
  (∀ (c : Config) (r : Regs c) (len bits : Nat) (i : Instr),
    (i = .nop len bits → r.sameRecord (r.perform i) ∧ r.sameCounters (r.perform i) ∧
      (r.perform i).status = r.status) ∧
    (i = .clrstat len bits → (r.perform i).status = r.status) ∧
    (isReserved i = true →
      r.sameCounters (r.perform i) ∧ (r.perform i).status.getLsbD 1 = r.status.getLsbD 1))

/-- Operand bits at and above `len` do not matter, and for `NOP`, `CLRSTAT` and the reserved op codes neither operand
matters (30_encoding.md R55, R56; 20_memory.md R44). Said of the command under every configuration, and of `exec`. -/
def Obligations.OperandBitsAboveLenAreIgnored : Prop :=
  ∀ (len len' bits bits' : Nat) (i j : Instr),
    (bits % 2 ^ len = bits' % 2 ^ len ∧
        (i = .enc len bits ∧ j = .enc len bits' ∨ i = .dec len bits ∧ j = .dec len bits' ∨
          i = .decfix len bits ∧ j = .decfix len bits') ∨
      i = .nop len bits ∧ j = .nop len' bits' ∨
      i = .clrstat len bits ∧ j = .clrstat len' bits' ∨
      i = .reserved101 len bits ∧ j = .reserved101 len' bits' ∨
      i = .reserved110 len bits ∧ j = .reserved110 len' bits' ∨
      i = .reserved111 len bits ∧ j = .reserved111 len' bits') →
    (∀ (c : Config) (r : Regs c), r.perform i = r.perform j) ∧ ∀ s : State, exec i s = exec j s

/-- Repeating `ENC` or `DEC` changes nothing more; repeating a legal `DECFIX` changes a counter, whenever counters have a
bit to change (20_memory.md R46). Said of the command under every configuration, and of `exec`. -/
def Obligations.RepeatingEncOrDecIsIdempotent : Prop :=
  (∀ (c : Config) (r : Regs c) (len bits : Nat),
    (r.perform (.enc len bits)).perform (.enc len bits) = r.perform (.enc len bits) ∧
    (r.perform (.dec len bits)).perform (.dec len bits) = r.perform (.dec len bits) ∧
    (1 ≤ len → len ≤ c.NMAX → 1 ≤ c.cntW →
      (r.perform (.decfix len bits)).perform (.decfix len bits) ≠ r.perform (.decfix len bits))) ∧
  (∀ (s t u : State) (len bits : Nat),
    (exec (.enc len bits) s = .next t → exec (.enc len bits) t = .next t) ∧
    (exec (.dec len bits) s = .next t → exec (.dec len bits) t = .next t) ∧
    (1 ≤ len → len ≤ Config.w11.NMAX →
      exec (.decfix len bits) s = .next t → exec (.decfix len bits) t = .next u → u ≠ t))

/-! ### Counters along a run -/

/-- Between two clears: along any sequence of accepted commands without `CLRSTAT`, the sum of the correct and errored
counts grows by the number of `DECFIX` commands accepted without LEN_FAULT, and the excess of errored over fixed by the
number of those whose localized position lay beyond the block, both modulo `2^CNT_W`; from cleared counters and with
fewer than `2^CNT_W` such commands the three facts of R98 hold of the numbers themselves (43_decoder.md R98). -/
def Obligations.CountersAccountForEveryDecfix : Prop :=
  ∀ (c : Config) (r : Regs c) (is : List Instr), (∀ i ∈ is, isClear i = false) →
    let r' := r.performAll is
    r'.cntOk + r'.cntErr = r.cntOk + r.cntErr + BitVec.ofNat c.cntW (is.countP (isCheckedDecode c)) ∧
    r'.cntErr - r'.cntFix = r.cntErr - r.cntFix + BitVec.ofNat c.cntW (is.countP (isOutOfRangeDecode c)) ∧
    (r.cntOk = 0 → r.cntErr = 0 → r.cntFix = 0 → is.countP (isCheckedDecode c) < 2 ^ c.cntW →
      r'.cntOk.toNat + r'.cntErr.toNat = is.countP (isCheckedDecode c) ∧
      r'.cntErr.toNat = r'.cntFix.toNat + is.countP (isOutOfRangeDecode c) ∧
      r'.cntFix.toNat ≤ r'.cntErr.toNat)

/-- The counters of a decode call are the sums of its parts, in any split over units, and do not depend on the order of
the chunks: chunks `xs` on one unit and `ys` on another from cleared counters add up to what one unit counts over all
of them, or over a permutation of them (44_stream.md R108). -/
def Obligations.SplitDecodeCountersAddUp : Prop :=
  ∀ (c : Config) (ra rb rc : Regs c) (xs ys zs : List BitSeq),
    (∀ x ∈ xs ++ ys, x.length ≤ c.NMAX) → zs.Perm (xs ++ ys) →
    ra.sameCounters (Regs.reset c) → rb.sameCounters (Regs.reset c) → rc.sameCounters (Regs.reset c) →
    let ra' := (issueChunks .decfix xs ra).2
    let rb' := (issueChunks .decfix ys rb).2
    let rc' := (issueChunks .decfix zs rc).2
    rc'.cntOk = ra'.cntOk + rb'.cntOk ∧ rc'.cntErr = ra'.cntErr + rb'.cntErr ∧ rc'.cntFix = ra'.cntFix + rb'.cntFix

/-! ### Configuration and control positions -/

/-- A configuration with `W <= 0` is refused; any other integer gives the unit of that word length (00_scope.md R6). That
every counter width, 0 among them, elaborates is the model's choice (log entry 8). -/
def Obligations.NonPositiveWordLengthIsRefused : Prop :=
  ∀ (w : Int) (cntW : Nat),
    (w ≤ 0 → Config.elaborate w cntW = .error .wordLengthNotPositive) ∧
    (1 ≤ w → ∃ c : Config, Config.elaborate w cntW = .ok c ∧ (c.W : Int) = w ∧ c.cntW = cntW)

/-- `get_control_bits(n)` is empty for `n <= 0` and otherwise the `floor(log2 n) + 1` powers of two up to `n`, ascending
(41_bitblock.md R67). -/
def Obligations.ControlPositionsArePowersOfTwo : Prop :=
  (∀ n : Int, n ≤ 0 → getControlBits n = []) ∧
  (∀ n : Nat, 1 ≤ n → getControlBits n = (List.range (Nat.log2 n + 1)).map fun k => 2 ^ k) ∧
  (∀ n x : Nat, x ∈ getControlBits n ↔ (∃ k, x = 2 ^ k) ∧ x ≤ n)

/-- `pexp(x)` holds distinct powers of two that sum to `x`, and `2^k` is in `pexp(j)` exactly when `j & 2^k` is not 0
(41_bitblock.md R69, R70). -/
def Obligations.DecompositionSumsToThePosition : Prop :=
  (∀ x : Nat, (pexp x).sum = x ∧ (pexp x).Nodup ∧ (1 ≤ x → pexp x ≠ []) ∧
    (∀ y, y ∈ pexp x ↔ ∃ k, y = 2 ^ k ∧ x.testBit k = true)) ∧
  (∀ j k : Nat, 2 ^ k ∈ pexp j ↔ j &&& 2 ^ k ≠ 0)

/-- `m(L) = ceil(log2 L)` for `1 <= L <= W`, and beyond `W` every control position is present (41_bitblock.md R72). -/
def Obligations.ParityCountIsCeilLog : Prop :=
  (∀ W L : Nat, 1 ≤ L → L ≤ W → parityCount W L = Nat.clog 2 L) ∧
  (∀ (c : Config) (N : Nat), c.W < N → Q c.W N = P c.W ∧ (Q c.W N).length = c.K)

/-- Only positions from `2^K` up are partly covered, and only multiples of `2^K` are uncovered; a position of neither
class and outside `P` is fully covered, its decomposition lying in `P` (41_bitblock.md R73). -/
def Obligations.CoverageClassesOfPositions : Prop :=
  ∀ (c : Config) (j : Nat), 1 ≤ j →
    (posClass c.W j = .control ↔ j ∈ P c.W) ∧
    (posClass c.W j = .fullyCovered ↔ j ∉ P c.W ∧ ∀ p ∈ pexp j, p ∈ P c.W) ∧
    (posClass c.W j = .partlyCovered ↔ j ∉ P c.W ∧ (∃ p ∈ pexp j, p ∈ P c.W) ∧ ∃ p ∈ pexp j, p ∉ P c.W) ∧
    (posClass c.W j = .uncovered ↔ j ∉ P c.W ∧ ∀ p ∈ pexp j, p ∉ P c.W) ∧
    (posClass c.W j = .partlyCovered → 2 ^ c.K ≤ j) ∧
    (posClass c.W j = .uncovered → ∃ t, 1 ≤ t ∧ j = 2 ^ c.K * t)

/-! ### The code -/

/-- Placeholder insertion puts a 0 at each present control position and the data bits, in order, at the other positions
(42_encoder.md R75, R76; 30_encoding.md R60). -/
def Obligations.InsertionGivesTheLayout : Prop :=
  ∀ (W : Nat) (d : BitSeq), 1 ≤ d.length → d.length ≤ W →
    (encInsert W d).length = d.length + parityCount W d.length ∧
    (∀ p ∈ Q W d.length, bitAt (encInsert W d) p = false) ∧
    (dataPositions W d.length).map (bitAt (encInsert W d)) = d

/-- The parity map of the loop is the XOR tree of each control position, for any sequence (43_decoder.md R83, R84). -/
def Obligations.ParityMapIsXorTrees : Prop :=
  ∀ (W : Nat) (b : BitSeq) (p : Nat), p ∈ P W → (computeSyndrome W b).bit p = parityTree W b p

/-- The source's insertion form and the hardware's parallel form of `encode_block` are equal (42_encoder.md R74, R76,
R78). -/
def Obligations.EncodingEqualsParallelForm : Prop :=
  ∀ (W : Nat) (d : BitSeq), 1 ≤ d.length → d.length ≤ W → encodeBlock W d = encodeParallel W d

/-- The code block holds data bit `t` at `pos(t)` and, at each present control position, the XOR of the covered
positions (42_encoder.md R78). -/
def Obligations.CodeBlockBits : Prop :=
  ∀ (W : Nat) (d : BitSeq), 1 ≤ d.length → d.length ≤ W →
    (∀ t, 1 ≤ t → t ≤ d.length → bitAt (encodeBlock W d) (pos W d.length t) = bitAt d t) ∧
    (∀ p ∈ Q W d.length, bitAt (encodeBlock W d) p = parityTree W (encodeBlock W d) p ∧
      bitAt (encodeBlock W d) p = parityOfData W d p)

/-- Every parity bit of a code block equals the parity map recomputed over that block (42_encoder.md R82). -/
def Obligations.CodeBlockMatchesItsParityMap : Prop :=
  ∀ (W : Nat) (d : BitSeq), 1 ≤ d.length → d.length ≤ W → ∀ p ∈ Q W d.length,
    bitAt (encodeBlock W d) p = (computeSyndrome W (encodeBlock W d)).bit p

/-- A code block has `L + ceil(log2 L)` bits, at most `NMAX`, which `RES_LEN` can hold; for a full block that is `W + K`
when `W` is no power of two and `W + K - 1` when it is (42_encoder.md R81). -/
def Obligations.CodeBlockLength : Prop :=
  ∀ (c : Config) (d : BitSeq), 1 ≤ d.length → d.length ≤ c.W →
    (encodeBlock c.W d).length = d.length + Nat.clog 2 d.length ∧
    (encodeBlock c.W d).length ≤ c.NMAX ∧ c.NMAX < 2 ^ c.LW ∧
    (d.length = c.W → ¬powerOfTwo c.W → (encodeBlock c.W d).length = c.W + c.K) ∧
    (d.length = c.W → powerOfTwo c.W → (encodeBlock c.W d).length = c.W + c.K - 1)

/-- A control position at or beyond the data length carries no parity bit; inside the block it holds a data bit, and no
parity bit of the block depends on what stands there (42_encoder.md R79). -/
def Obligations.DataAtControlPositionIsUnprotected : Prop :=
  ∀ (W : Nat) (d : BitSeq) (p : Nat), 1 ≤ d.length → d.length ≤ W → p ∈ P W → d.length ≤ p →
    p ≤ d.length + parityCount W d.length →
    (∃ t, 1 ≤ t ∧ t ≤ d.length ∧ pos W d.length t = p) ∧
    (∀ (b : BitSeq) (q : Nat), q ∈ P W → parityTree W (flipAt b p) q = parityTree W b q)

/-- Stripping keeps the bits at the positions of `{1..N}` outside `Q(N)`, in increasing order (43_decoder.md R90). -/
def Obligations.StrippingKeepsUncontrolledBits : Prop :=
  ∀ (W : Nat) (b : BitSeq), 1 ≤ W → strip W b = uncontrolledBits W b

/-- The stripped block has `N - |Q(N)|` bits, at most `W` for a legal `N` and at least one; for a code block it is the
data length exactly when encoder and decoder use the same control set (43_decoder.md R91). -/
def Obligations.StrippedLengthFits : Prop :=
  (∀ (c : Config) (b : BitSeq), 1 ≤ b.length → b.length ≤ c.NMAX →
    (strip c.W b).length = b.length - (Q c.W b.length).length ∧ 1 ≤ (strip c.W b).length ∧
    (strip c.W b).length ≤ c.W) ∧
  (∀ (W : Nat) (d : BitSeq), 1 ≤ d.length → d.length ≤ W →
    ((strip W (encodeBlock W d)).length = d.length ↔ Q W (encodeBlock W d).length = Q W d.length))

/-- The localized position lies in `1 .. 2^K - 1` when there is a mismatch and fits `RES_POS`, and the mismatch vector
has the same value; both are 0 without a mismatch (43_decoder.md R97). -/
def Obligations.LocalizedPositionFits : Prop :=
  ∀ (c : Config) (b : BitSeq),
    (mismatches c.W b ≠ [] → 1 ≤ localized (mismatches c.W b) ∧ localized (mismatches c.W b) ≤ 2 ^ c.K - 1) ∧
    (mismatchVec c.K (mismatches c.W b)).toNat = localized (mismatches c.W b) ∧
    (mismatches c.W b = [] → localized (mismatches c.W b) = 0)

/-- A repair flips exactly the bit at the localized position, which lies in the block and is never a control position
outside `Q(N)`; without a mismatch, or beyond the block, no bit changes (43_decoder.md R88). -/
def Obligations.RepairFlipsAtMostOneBit : Prop :=
  ∀ (W : Nat) (b : BitSeq), 1 ≤ W →
    (repair (mismatches W b) b).length = b.length ∧
    (∀ j, 1 ≤ j → j ≤ b.length →
      (bitAt (repair (mismatches W b) b) j ≠ bitAt b j ↔ mismatches W b ≠ [] ∧ j = (mismatches W b).sum)) ∧
    (mismatches W b ≠ [] → (mismatches W b).sum ≤ b.length →
      (mismatches W b).sum ∈ Q W b.length ∨ (mismatches W b).sum ∉ P W)

/-! ### Encoder and decoder together -/

/-- The decoder's control set contains the encoder's, and equals it exactly when `agree(L)` holds; for a full block that
is when `W` is no power of two or is 1 (44_stream.md R102). -/
def Obligations.ControlSetsAgreeExactlyWhenAgree : Prop :=
  ∀ W L : Nat, 1 ≤ L → L ≤ W →
    (∀ p ∈ Q W L, p ∈ Q W (L + parityCount W L)) ∧
    (Q W (L + parityCount W L) = Q W L ↔ agree W L = true) ∧
    (agree W L = true ↔ ¬∃ p ∈ P W, L ≤ p ∧ p < L + parityCount W L) ∧
    (agree W W = true ↔ ¬powerOfTwo W ∨ W = 1)

/-- Round trip of a block: the unmodified result of `ENC`, given back to `DEC` or `DECFIX`, returns the data exactly when
`agree(L)` holds, and `DECFIX` then counts a correct block; otherwise both return one bit less, and `DECFIX` finds the
mismatch `2^m(L)` when the data bit stored there differs from the parity map (44_stream.md R103). -/
def Obligations.BlockRoundTripExactlyWhenAgree : Prop :=
  ∀ (c : Config) (r : Regs c) (d : BitSeq), 1 ≤ d.length → d.length ≤ c.W →
    let r1 := r.perform (.enc d.length (vecNat d))
    let r2 := r1.perform (.dec r1.resLen.toNat r1.resBits.toNat)
    let r3 := r1.perform (.decfix r1.resLen.toNat r1.resBits.toNat)
    (agree c.W d.length = true →
      r2.result = d ∧ r3.result = d ∧ r3.resErr = false ∧ r3.resMism = 0 ∧ r.countsOk r3) ∧
    (agree c.W d.length = false →
      (r2.result.length + 1 = d.length ∧ r3.result.length + 1 = d.length) ∧
      (bitAt r1.result (2 ^ parityCount c.W d.length) ≠
          parityTree c.W r1.result (2 ^ parityCount c.W d.length) →
        r3.resErr = true ∧ r3.resPos.toNat = 2 ^ parityCount c.W d.length ∧ r.countsRepair r3) ∧
      (bitAt r1.result (2 ^ parityCount c.W d.length) =
          parityTree c.W r1.result (2 ^ parityCount c.W d.length) →
        r3.resErr = false ∧ r.countsOk r3))

/-- Single-error correction: with `agree(L)` and one position `j` of the code block flipped, `DECFIX` returns the data,
localizes `j` and counts a repair exactly when `j` is a present control position or is covered by present ones.
Otherwise the data are wrong: a control position outside the present set or an uncovered position is missed, and a partly
covered position makes a lower bit flip (44_stream.md R104). -/
def Obligations.SingleErrorCorrectedExactlyWhenCovered : Prop :=
  ∀ (c : Config) (r : Regs c) (d : BitSeq) (j : Nat), 1 ≤ d.length → d.length ≤ c.W →
    agree c.W d.length = true → 1 ≤ j → j ≤ (encodeBlock c.W d).length →
    let r' := r.perform (.decfix (encodeBlock c.W d).length (vecNat (flipAt (encodeBlock c.W d) j)))
    (correctable c.W (encodeBlock c.W d).length j →
      r'.result = d ∧ r'.resErr = true ∧ r'.resPos.toNat = j ∧ r.countsRepair r') ∧
    (¬correctable c.W (encodeBlock c.W d).length j →
      r'.result ≠ d ∧
      (posClass c.W j = .control ∨ posClass c.W j = .uncovered → r'.resErr = false ∧ r.countsOk r') ∧
      (posClass c.W j = .partlyCovered →
        r'.resErr = true ∧ r'.resPos.toNat < j ∧ r.countsRepair r'))

/-- Every single error of a block is correctable exactly when `L + m(L) <= 2^m(L) - 1`, which implies `agree(L)`; for a
full block that is `2^(K-1) < W <= 2^K - 1 - K` (44_stream.md R104). -/
def Obligations.EverySingleErrorCorrectableExactlyWhen : Prop :=
  (∀ W L : Nat, 1 ≤ L → L ≤ W →
    (L + parityCount W L < 2 ^ parityCount W L → agree W L = true) ∧
    (agree W L = true →
      ((∀ j, 1 ≤ j → j ≤ L + parityCount W L → correctable W (L + parityCount W L) j) ↔
        L + parityCount W L < 2 ^ parityCount W L))) ∧
  (∀ c : Config, c.W + parityCount c.W c.W < 2 ^ parityCount c.W c.W ↔
    2 ^ (c.K - 1) < c.W ∧ c.W + c.K ≤ 2 ^ c.K - 1)

/-- Decoding without repair: with `agree(L)` and one position `j` flipped, `DEC` returns the data exactly when `j` is a
present control position; otherwise it returns the data with the one bit stored at `j` wrong. No counter changes
(44_stream.md R107). -/
def Obligations.DecPassesDataErrorsThrough : Prop :=
  ∀ (c : Config) (r : Regs c) (d : BitSeq) (j : Nat), 1 ≤ d.length → d.length ≤ c.W →
    agree c.W d.length = true → 1 ≤ j → j ≤ (encodeBlock c.W d).length →
    let r' := r.perform (.dec (encodeBlock c.W d).length (vecNat (flipAt (encodeBlock c.W d) j)))
    (r'.result = d ↔ j ∈ Q c.W (encodeBlock c.W d).length) ∧
    (j ∉ Q c.W (encodeBlock c.W d).length →
      ∃ t, 1 ≤ t ∧ t ≤ d.length ∧ pos c.W d.length t = j ∧ r'.result = flipAt d t) ∧
    r.sameCounters r'

/-! ### Streams -/

/-- An empty payload issues no command when encoded and `CLRSTAT` alone when decoded, and no chunk of any stream is empty
(44_stream.md R101). -/
def Obligations.EmptyStreamIssuesNoBlock : Prop :=
  ∀ (c : Config) (r : Regs c),
    encodeStream [] r = ([], r) ∧
    (∀ fix : Bool, decodeStream fix [] r = ([], r.perform (.clrstat 0 0)) ∧
      (decodeStream fix [] r).2.cntOk = 0 ∧ (decodeStream fix [] r).2.cntErr = 0 ∧
      (decodeStream fix [] r).2.cntFix = 0) ∧
    ∀ x : BitSeq, (∀ b ∈ chunks c.W x, b ≠ []) ∧ ∀ b ∈ chunks c.NMAX x, b ≠ []

/-- Stream encoding and decoding are block by block: the stream results are the concatenated block results, the chunks
are those of R99 and R100 with legal lengths so that nothing faults, encoding counts nothing, and a decode starts from
cleared counters (44_stream.md R99, R100; 30_encoding.md R63). -/
def Obligations.StreamsAreCodedChunkByChunk : Prop :=
  ∀ (c : Config) (r : Regs c) (x : BitSeq),
    ((encodeStream x r).1 = ((chunks c.W x).map (encodeBlock c.W)).flatten ∧
      r.sameCounters (encodeStream x r).2 ∧ (encodeStream x r).2.status = r.status) ∧
    ((decodeStream false x r).1 = ((chunks c.NMAX x).map (strip c.W)).flatten ∧
      (decodeStream false x r).2.cntOk = 0 ∧ (decodeStream false x r).2.cntErr = 0 ∧
      (decodeStream false x r).2.cntFix = 0 ∧ (decodeStream false x r).2.status = r.status) ∧
    ((decodeStream true x r).1 =
        ((chunks c.NMAX x).map fun b => strip c.W (repair (mismatches c.W b) b)).flatten ∧
      (decodeStream true x r).2.cntOk =
        BitVec.ofNat c.cntW ((chunks c.NMAX x).countP fun b => !errorFound (mismatches c.W b)) ∧
      (decodeStream true x r).2.cntErr =
        BitVec.ofNat c.cntW ((chunks c.NMAX x).countP fun b => errorFound (mismatches c.W b)) ∧
      (decodeStream true x r).2.cntFix =
        BitVec.ofNat c.cntW ((chunks c.NMAX x).countP fun b => flipApplied (mismatches c.W b) b.length) ∧
      (decodeStream true x r).2.status = r.status) ∧
    (chunks c.W x).flatten = x ∧ (∀ b ∈ chunks c.W x, 1 ≤ b.length ∧ b.length ≤ c.W) ∧
    (∀ b ∈ (chunks c.W x).dropLast, b.length = c.W) ∧
    (chunks c.NMAX x).flatten = x ∧ (∀ b ∈ chunks c.NMAX x, 1 ≤ b.length ∧ b.length ≤ c.NMAX) ∧
    ∀ b ∈ (chunks c.NMAX x).dropLast, b.length = c.NMAX

/-- Round trip of a stream: decoding an unmodified encoded stream, with or without repair, returns the payload exactly
when the payload is empty, or is a single chunk that agrees, or `W` is no power of two and the last chunk agrees
(44_stream.md R106). -/
def Obligations.StreamRoundTripExactlyWhen : Prop :=
  ∀ (c : Config) (r : Regs c) (x : BitSeq) (fix : Bool),
    (decodeStream fix (encodeStream x r).1 (encodeStream x r).2).1 = x ↔
      x.length = 0 ∨
      (1 ≤ x.length ∧ x.length ≤ c.W ∧ agree c.W x.length = true) ∨
      (c.W < x.length ∧ ¬powerOfTwo c.W ∧ agree c.W (lastChunkLen c.W x.length) = true)

/-! ### The assembler -/

/-- The string forms: a string of `0` and `1` characters within `NMAX` assembles to the command with that length and
with character `t` on bit `t-1`; a longer string, or one with any other character, is refused (30_encoding.md R62;
20_memory.md R43). -/
def Obligations.AssemblerRefusesBadStrings : Prop :=
  ∀ (c : Config) (text : List Char),
    ((∃ ch ∈ text, ch ≠ '0' ∧ ch ≠ '1') →
      assemble c (.enc text) = .error .notBinary ∧ assemble c (.dec text) = .error .notBinary ∧
      assemble c (.decfix text) = .error .notBinary) ∧
    ((∀ ch ∈ text, ch = '0' ∨ ch = '1') → c.NMAX < text.length →
      assemble c (.enc text) = .error .stringTooLong ∧ assemble c (.dec text) = .error .stringTooLong ∧
      assemble c (.decfix text) = .error .stringTooLong) ∧
    ((∀ ch ∈ text, ch = '0' ∨ ch = '1') → text.length ≤ c.NMAX →
      ∃ bits : Nat, (∀ t, 1 ≤ t → bits.testBit (t - 1) = decide (text.getD (t - 1) '0' = '1')) ∧
        assemble c (.enc text) = .ok [.enc text.length bits] ∧
        assemble c (.dec text) = .ok [.dec text.length bits] ∧
        assemble c (.decfix text) = .ok [.decfix text.length bits])
end

