-- ==== Sys2Proof/Laws/Sequence.lean ====
section
/-! SUPPORT. Lengths, reads and round trips of the sequence operations (Machine/Sequence.lean). -/

namespace Sys2Proof.Machine

@[simp] theorem bitAt_zero (b : BitSeq) : bitAt b 0 = false := rfl

@[simp] theorem bitAt_succ (b : BitSeq) (j : Nat) : bitAt b (j + 1) = b.getD j false := rfl

@[simp] theorem positions_length (n : Nat) : (positions n).length = n := by simp [positions]

@[simp] theorem mem_positions (n j : Nat) : j ∈ positions n ↔ 1 ≤ j ∧ j ≤ n := by
  simp only [positions, List.mem_map, List.mem_range]
  constructor
  · rintro ⟨a, ha, rfl⟩; omega
  · intro h; exact ⟨j - 1, by omega, by omega⟩

@[simp] theorem seqOf_length (v n : Nat) : (seqOf v n).length = n := by simp [seqOf]

theorem bitAt_seqOf (v n j : Nat) (h1 : 1 ≤ j) (h2 : j ≤ n) : bitAt (seqOf v n) j = v.testBit (j - 1) := by
  obtain ⟨k, rfl⟩ : ∃ k, j = k + 1 := ⟨j - 1, by omega⟩
  have hk : k < n := by omega
  simp [seqOf, List.getD_eq_getElem?_getD, hk]

theorem bitAt_beyond (b : BitSeq) (j : Nat) (h : b.length < j) : bitAt b j = false := by
  obtain ⟨k, rfl⟩ : ∃ k, j = k + 1 := ⟨j - 1, by omega⟩
  have hk : b.length ≤ k := by omega
  simp [List.getD_eq_getElem?_getD, List.getElem?_eq_none hk]

/-- Two sequences of one length with equal bits at every position are equal. -/
theorem ext_bitAt {a b : BitSeq} (hl : a.length = b.length)
    (h : ∀ j, 1 ≤ j → j ≤ a.length → bitAt a j = bitAt b j) : a = b := by
  apply List.ext_getElem hl
  intro i ha hb
  have := h (i + 1) (by omega) (by omega)
  simpa [List.getD_eq_getElem?_getD, ha, hb] using this

theorem vecNat_testBit (b : BitSeq) (i : Nat) : (vecNat b).testBit i = b.getD i false := by
  induction b generalizing i with
  | nil => simp [vecNat]
  | cons x b ih =>
    cases i with
    | zero => cases x <;> simp [vecNat]
    | succ i =>
      have : (x.toNat + 2 * vecNat b) / 2 = vecNat b := by cases x <;> (simp; try omega)
      simp [vecNat, Nat.testBit_succ, this, ih]

theorem vecNat_lt (b : BitSeq) : vecNat b < 2 ^ b.length := by
  induction b with
  | nil => simp [vecNat]
  | cons x b ih =>
    have hx : x.toNat ≤ 1 := by cases x <;> simp
    simp only [vecNat, List.length_cons, Nat.pow_succ]
    omega

/-- Reading back the bus a sequence was put on gives the sequence. -/
@[simp] theorem seqOf_vecNat (b : BitSeq) : seqOf (vecNat b) b.length = b := by
  apply ext_bitAt (by simp)
  intro j h1 h2
  obtain ⟨k, rfl⟩ : ∃ k, j = k + 1 := ⟨j - 1, by omega⟩
  rw [bitAt_seqOf _ _ _ (by omega) (by simpa using h2), vecNat_testBit]
  simp

/-- A sequence that fits a bus is the value on that bus. -/
theorem vecOf_toNat {b : BitSeq} {n : Nat} (h : b.length ≤ n) : (vecOf b n).toNat = vecNat b := by
  rw [vecOf, BitVec.toNat_ofNat]
  exact Nat.mod_eq_of_lt (lt_of_lt_of_le (vecNat_lt b) (Nat.pow_le_pow_right (by omega) h))

@[simp] theorem setAt_length (b : BitSeq) (j : Nat) (v : Bool) : (setAt b j v).length = b.length := by
  cases j <;> simp [setAt]

@[simp] theorem flipAt_length (b : BitSeq) (j : Nat) : (flipAt b j).length = b.length := by simp [flipAt]

theorem bitAt_setAt (b : BitSeq) (j k : Nat) (v : Bool) (h1 : 1 ≤ j) (h2 : j ≤ b.length) :
    bitAt (setAt b j v) k = if k = j then v else bitAt b k := by
  obtain ⟨i, rfl⟩ : ∃ i, j = i + 1 := ⟨j - 1, by omega⟩
  have hi : i < b.length := by omega
  cases k with
  | zero => simp [setAt]
  | succ k =>
    by_cases hk : k = i
    · subst hk; simp [setAt, List.getD_eq_getElem?_getD, hi]
    · have hk' : i ≠ k := fun h => hk h.symm
      simp [setAt, List.getD_eq_getElem?_getD, hk, hk']

theorem bitAt_flipAt (b : BitSeq) (j k : Nat) (h1 : 1 ≤ j) (h2 : j ≤ b.length) :
    bitAt (flipAt b j) k = if k = j then !bitAt b j else bitAt b k := bitAt_setAt b j k _ h1 h2

theorem insertAt_length (b : BitSeq) (j : Nat) (v : Bool) (h : j ≤ b.length + 1) :
    (insertAt b j v).length = b.length + 1 := by
  simp only [insertAt]
  exact List.length_insertIdx_of_le_length (by omega) ..

theorem deleteAt_length (b : BitSeq) (j : Nat) (h1 : 1 ≤ j) (h2 : j ≤ b.length) :
    (deleteAt b j).length = b.length - 1 := by
  obtain ⟨i, rfl⟩ : ∃ i, j = i + 1 := ⟨j - 1, by omega⟩
  simp only [deleteAt]
  exact List.length_eraseIdx_of_lt (by omega)

@[simp] theorem xorAll_nil : xorAll [] = false := rfl

@[simp] theorem xorAll_cons (b : Bool) (bs : List Bool) : xorAll (b :: bs) = (b ^^ xorAll bs) := rfl

end Sys2Proof.Machine
end

