-- ==== Sys2Proof/Laws/BitBlock.lean ====
section
/-! SUPPORT. Membership in the sets of Machine/BitBlock.lean, and the widths of Config.lean. -/

namespace Sys2Proof.Machine

/-- What the loop of `get_control_bits` collects: the doublings of its start up to `n`, as far as its fuel goes. -/
theorem mem_controlLoop (n fuel i x : Nat) :
    x ∈ controlLoop n fuel i ↔ ∃ k, k < fuel ∧ x = i * 2 ^ k ∧ (i = 0 ∨ x ≤ n) := by
  induction fuel generalizing i with
  | zero => simp [controlLoop]
  | succ fuel ih =>
    rw [controlLoop]
    split
    · rename_i hi
      rw [List.mem_cons, ih]
      constructor
      · rintro (rfl | ⟨k, hk, rfl, h⟩)
        · exact ⟨0, by omega, by simp, Or.inr hi⟩
        · exact ⟨k + 1, by omega, by rw [Nat.pow_succ]; ring, by omega⟩
      · rintro ⟨k, hk, rfl, h⟩
        cases k with
        | zero => left; simp
        | succ k => right; exact ⟨k, by omega, by rw [Nat.pow_succ]; ring, by omega⟩
    · rename_i hi
      simp only [List.not_mem_nil, false_iff]
      rintro ⟨k, -, rfl, h⟩
      have : i * 1 ≤ i * 2 ^ k := Nat.mul_le_mul_left i Nat.one_le_two_pow
      omega

@[simp] theorem mem_Q (W n p : Nat) : p ∈ Q W n ↔ p ∈ P W ∧ p < n := by simp [Q]

@[simp] theorem mem_cov (W p n j : Nat) : j ∈ cov W p n ↔ (1 ≤ j ∧ j ≤ n) ∧ j ∉ P W ∧ j &&& p ≠ 0 := by
  simp [cov]

@[simp] theorem mem_dataPositions (W L j : Nat) :
    j ∈ dataPositions W L ↔ (1 ≤ j ∧ j ≤ L + parityCount W L) ∧ j ∉ Q W L := by
  simp only [dataPositions, List.mem_filter, mem_positions, decide_eq_true_eq]

/-- Every position in range fits a length field (spec 00_scope.md R8). -/
theorem NMAX_lt_two_pow_LW (c : Config) : c.NMAX < 2 ^ c.LW := Nat.lt_log2_self

theorem W_lt_two_pow_K (c : Config) : c.W < 2 ^ c.K := Nat.lt_log2_self

theorem two_pow_K_le (c : Config) : 2 ^ (c.K - 1) ≤ c.W := Nat.log2_self_le (by have := c.W_pos; omega)

@[simp] theorem encLenLegal_iff (c : Config) (len : Nat) : encLenLegal c len = true ↔ 1 ≤ len ∧ len ≤ c.W := by
  simp [encLenLegal]

@[simp] theorem decLenLegal_iff (c : Config) (len : Nat) : decLenLegal c len = true ↔ 1 ≤ len ∧ len ≤ c.NMAX := by
  simp [decLenLegal]

end Sys2Proof.Machine
end

