-- ==== Sys2Proof/Laws/State.lean ====
section
/-! SUPPORT. What each register operation leaves in each register, one lemma per field and operation, so that no later
proof unfolds a record update. -/

namespace Sys2Proof.Machine

variable {c : Config} (r : Regs c)

@[simp] theorem Regs.putResult_cntOk (op : BitVec 3) (out : BitSeq) : (r.putResult op out).cntOk = r.cntOk := rfl
@[simp] theorem Regs.putResult_cntErr (op : BitVec 3) (out : BitSeq) : (r.putResult op out).cntErr = r.cntErr := rfl
@[simp] theorem Regs.putResult_cntFix (op : BitVec 3) (out : BitSeq) : (r.putResult op out).cntFix = r.cntFix := rfl
@[simp] theorem Regs.putResult_status (op : BitVec 3) (out : BitSeq) : (r.putResult op out).status = r.status := rfl
@[simp] theorem Regs.putResult_resOp (op : BitVec 3) (out : BitSeq) : (r.putResult op out).resOp = op := rfl
@[simp] theorem Regs.putResult_resLen (op : BitVec 3) (out : BitSeq) : (r.putResult op out).resLen = BitVec.ofNat c.LW out.length := rfl
@[simp] theorem Regs.putResult_resBits (op : BitVec 3) (out : BitSeq) : (r.putResult op out).resBits = vecOf out c.NMAX := rfl
@[simp] theorem Regs.putResult_resChk (op : BitVec 3) (out : BitSeq) : (r.putResult op out).resChk = false := rfl
@[simp] theorem Regs.putResult_resErr (op : BitVec 3) (out : BitSeq) : (r.putResult op out).resErr = false := rfl
@[simp] theorem Regs.putResult_resPos (op : BitVec 3) (out : BitSeq) : (r.putResult op out).resPos = 0 := rfl
@[simp] theorem Regs.putResult_resMism (op : BitVec 3) (out : BitSeq) : (r.putResult op out).resMism = 0 := rfl
@[simp] theorem Regs.putResult_resRange (op : BitVec 3) (out : BitSeq) : (r.putResult op out).resRange = false := rfl
@[simp] theorem Regs.putResult_resFlt (op : BitVec 3) (out : BitSeq) : (r.putResult op out).resFlt = 0 := rfl
@[simp] theorem Regs.putResult_rspValid (op : BitVec 3) (out : BitSeq) : (r.putResult op out).rspValid = true := rfl

@[simp] theorem Regs.putCheck_cntOk (M : List Nat) (n : Nat) : (r.putCheck M n).cntOk = r.cntOk := rfl
@[simp] theorem Regs.putCheck_cntErr (M : List Nat) (n : Nat) : (r.putCheck M n).cntErr = r.cntErr := rfl
@[simp] theorem Regs.putCheck_cntFix (M : List Nat) (n : Nat) : (r.putCheck M n).cntFix = r.cntFix := rfl
@[simp] theorem Regs.putCheck_status (M : List Nat) (n : Nat) : (r.putCheck M n).status = r.status := rfl
@[simp] theorem Regs.putCheck_resOp (M : List Nat) (n : Nat) : (r.putCheck M n).resOp = r.resOp := rfl
@[simp] theorem Regs.putCheck_resLen (M : List Nat) (n : Nat) : (r.putCheck M n).resLen = r.resLen := rfl
@[simp] theorem Regs.putCheck_resBits (M : List Nat) (n : Nat) : (r.putCheck M n).resBits = r.resBits := rfl
@[simp] theorem Regs.putCheck_resChk (M : List Nat) (n : Nat) : (r.putCheck M n).resChk = true := rfl
@[simp] theorem Regs.putCheck_resErr (M : List Nat) (n : Nat) : (r.putCheck M n).resErr = errorFound M := rfl
@[simp] theorem Regs.putCheck_resPos (M : List Nat) (n : Nat) : (r.putCheck M n).resPos = BitVec.ofNat c.K (localized M) := rfl
@[simp] theorem Regs.putCheck_resMism (M : List Nat) (n : Nat) : (r.putCheck M n).resMism = mismatchVec c.K M := rfl
@[simp] theorem Regs.putCheck_resRange (M : List Nat) (n : Nat) : (r.putCheck M n).resRange = outOfRange M n := rfl
@[simp] theorem Regs.putCheck_resFlt (M : List Nat) (n : Nat) : (r.putCheck M n).resFlt = r.resFlt := rfl
@[simp] theorem Regs.putCheck_rspValid (M : List Nat) (n : Nat) : (r.putCheck M n).rspValid = r.rspValid := rfl

@[simp] theorem Regs.recordFault_cntOk (op : BitVec 3) (code mask : BitVec 2) : (r.recordFault op code mask).cntOk = r.cntOk := rfl
@[simp] theorem Regs.recordFault_cntErr (op : BitVec 3) (code mask : BitVec 2) : (r.recordFault op code mask).cntErr = r.cntErr := rfl
@[simp] theorem Regs.recordFault_cntFix (op : BitVec 3) (code mask : BitVec 2) : (r.recordFault op code mask).cntFix = r.cntFix := rfl
@[simp] theorem Regs.recordFault_status (op : BitVec 3) (code mask : BitVec 2) : (r.recordFault op code mask).status = r.status ||| mask := rfl
@[simp] theorem Regs.recordFault_resOp (op : BitVec 3) (code mask : BitVec 2) : (r.recordFault op code mask).resOp = op := rfl
@[simp] theorem Regs.recordFault_resLen (op : BitVec 3) (code mask : BitVec 2) : (r.recordFault op code mask).resLen = 0 := rfl
@[simp] theorem Regs.recordFault_resBits (op : BitVec 3) (code mask : BitVec 2) : (r.recordFault op code mask).resBits = 0 := rfl
@[simp] theorem Regs.recordFault_resChk (op : BitVec 3) (code mask : BitVec 2) : (r.recordFault op code mask).resChk = false := rfl
@[simp] theorem Regs.recordFault_resErr (op : BitVec 3) (code mask : BitVec 2) : (r.recordFault op code mask).resErr = false := rfl
@[simp] theorem Regs.recordFault_resPos (op : BitVec 3) (code mask : BitVec 2) : (r.recordFault op code mask).resPos = 0 := rfl
@[simp] theorem Regs.recordFault_resMism (op : BitVec 3) (code mask : BitVec 2) : (r.recordFault op code mask).resMism = 0 := rfl
@[simp] theorem Regs.recordFault_resRange (op : BitVec 3) (code mask : BitVec 2) : (r.recordFault op code mask).resRange = false := rfl
@[simp] theorem Regs.recordFault_resFlt (op : BitVec 3) (code mask : BitVec 2) : (r.recordFault op code mask).resFlt = code := rfl
@[simp] theorem Regs.recordFault_rspValid (op : BitVec 3) (code mask : BitVec 2) : (r.recordFault op code mask).rspValid = true := rfl

@[simp] theorem Regs.countBlock_cntOk (M : List Nat) (n : Nat) : (r.countBlock M n).cntOk = bump r.cntOk (!errorFound M) := rfl
@[simp] theorem Regs.countBlock_cntErr (M : List Nat) (n : Nat) : (r.countBlock M n).cntErr = bump r.cntErr (errorFound M) := rfl
@[simp] theorem Regs.countBlock_cntFix (M : List Nat) (n : Nat) : (r.countBlock M n).cntFix = bump r.cntFix (flipApplied M n) := rfl
@[simp] theorem Regs.countBlock_status (M : List Nat) (n : Nat) : (r.countBlock M n).status = r.status := rfl
@[simp] theorem Regs.countBlock_resOp (M : List Nat) (n : Nat) : (r.countBlock M n).resOp = r.resOp := rfl
@[simp] theorem Regs.countBlock_resLen (M : List Nat) (n : Nat) : (r.countBlock M n).resLen = r.resLen := rfl
@[simp] theorem Regs.countBlock_resBits (M : List Nat) (n : Nat) : (r.countBlock M n).resBits = r.resBits := rfl
@[simp] theorem Regs.countBlock_resChk (M : List Nat) (n : Nat) : (r.countBlock M n).resChk = r.resChk := rfl
@[simp] theorem Regs.countBlock_resErr (M : List Nat) (n : Nat) : (r.countBlock M n).resErr = r.resErr := rfl
@[simp] theorem Regs.countBlock_resPos (M : List Nat) (n : Nat) : (r.countBlock M n).resPos = r.resPos := rfl
@[simp] theorem Regs.countBlock_resMism (M : List Nat) (n : Nat) : (r.countBlock M n).resMism = r.resMism := rfl
@[simp] theorem Regs.countBlock_resRange (M : List Nat) (n : Nat) : (r.countBlock M n).resRange = r.resRange := rfl
@[simp] theorem Regs.countBlock_resFlt (M : List Nat) (n : Nat) : (r.countBlock M n).resFlt = r.resFlt := rfl
@[simp] theorem Regs.countBlock_rspValid (M : List Nat) (n : Nat) : (r.countBlock M n).rspValid = r.rspValid := rfl

@[simp] theorem Regs.clearCounters_cntOk : r.clearCounters.cntOk = 0 := rfl
@[simp] theorem Regs.clearCounters_cntErr : r.clearCounters.cntErr = 0 := rfl
@[simp] theorem Regs.clearCounters_cntFix : r.clearCounters.cntFix = 0 := rfl
@[simp] theorem Regs.clearCounters_status : r.clearCounters.status = r.status := rfl
@[simp] theorem Regs.clearCounters_resOp : r.clearCounters.resOp = r.resOp := rfl
@[simp] theorem Regs.clearCounters_resLen : r.clearCounters.resLen = r.resLen := rfl
@[simp] theorem Regs.clearCounters_resBits : r.clearCounters.resBits = r.resBits := rfl
@[simp] theorem Regs.clearCounters_resChk : r.clearCounters.resChk = r.resChk := rfl
@[simp] theorem Regs.clearCounters_resErr : r.clearCounters.resErr = r.resErr := rfl
@[simp] theorem Regs.clearCounters_resPos : r.clearCounters.resPos = r.resPos := rfl
@[simp] theorem Regs.clearCounters_resMism : r.clearCounters.resMism = r.resMism := rfl
@[simp] theorem Regs.clearCounters_resRange : r.clearCounters.resRange = r.resRange := rfl
@[simp] theorem Regs.clearCounters_resFlt : r.clearCounters.resFlt = r.resFlt := rfl
@[simp] theorem Regs.clearCounters_rspValid : r.clearCounters.rspValid = r.rspValid := rfl

@[simp] theorem Regs.idle_cntOk : r.idle.cntOk = r.cntOk := rfl
@[simp] theorem Regs.idle_cntErr : r.idle.cntErr = r.cntErr := rfl
@[simp] theorem Regs.idle_cntFix : r.idle.cntFix = r.cntFix := rfl
@[simp] theorem Regs.idle_status : r.idle.status = r.status := rfl
@[simp] theorem Regs.idle_resOp : r.idle.resOp = r.resOp := rfl
@[simp] theorem Regs.idle_resLen : r.idle.resLen = r.resLen := rfl
@[simp] theorem Regs.idle_resBits : r.idle.resBits = r.resBits := rfl
@[simp] theorem Regs.idle_resChk : r.idle.resChk = r.resChk := rfl
@[simp] theorem Regs.idle_resErr : r.idle.resErr = r.resErr := rfl
@[simp] theorem Regs.idle_resPos : r.idle.resPos = r.resPos := rfl
@[simp] theorem Regs.idle_resMism : r.idle.resMism = r.resMism := rfl
@[simp] theorem Regs.idle_resRange : r.idle.resRange = r.resRange := rfl
@[simp] theorem Regs.idle_resFlt : r.idle.resFlt = r.resFlt := rfl
@[simp] theorem Regs.idle_rspValid : r.idle.rspValid = false := rfl

@[simp] theorem Regs.clrstat_cntOk : r.clrstat.cntOk = 0 := rfl
@[simp] theorem Regs.clrstat_cntErr : r.clrstat.cntErr = 0 := rfl
@[simp] theorem Regs.clrstat_cntFix : r.clrstat.cntFix = 0 := rfl
@[simp] theorem Regs.clrstat_status : r.clrstat.status = r.status := rfl
@[simp] theorem Regs.clrstat_resOp : r.clrstat.resOp = 4 := rfl
@[simp] theorem Regs.clrstat_resLen : r.clrstat.resLen = 0 := rfl
@[simp] theorem Regs.clrstat_resBits : r.clrstat.resBits = 0 := rfl
@[simp] theorem Regs.clrstat_resChk : r.clrstat.resChk = false := rfl
@[simp] theorem Regs.clrstat_resErr : r.clrstat.resErr = false := rfl
@[simp] theorem Regs.clrstat_resPos : r.clrstat.resPos = 0 := rfl
@[simp] theorem Regs.clrstat_resMism : r.clrstat.resMism = 0 := rfl
@[simp] theorem Regs.clrstat_resRange : r.clrstat.resRange = false := rfl
@[simp] theorem Regs.clrstat_resFlt : r.clrstat.resFlt = 0 := rfl
@[simp] theorem Regs.clrstat_rspValid : r.clrstat.rspValid = true := rfl

@[simp] theorem Regs.reset_cntOk : (Regs.reset c).cntOk = 0 := rfl
@[simp] theorem Regs.reset_cntErr : (Regs.reset c).cntErr = 0 := rfl
@[simp] theorem Regs.reset_cntFix : (Regs.reset c).cntFix = 0 := rfl
@[simp] theorem Regs.reset_status : (Regs.reset c).status = 0 := rfl
@[simp] theorem Regs.reset_resOp : (Regs.reset c).resOp = 0 := rfl
@[simp] theorem Regs.reset_resLen : (Regs.reset c).resLen = 0 := rfl
@[simp] theorem Regs.reset_resBits : (Regs.reset c).resBits = 0 := rfl
@[simp] theorem Regs.reset_resChk : (Regs.reset c).resChk = false := rfl
@[simp] theorem Regs.reset_resErr : (Regs.reset c).resErr = false := rfl
@[simp] theorem Regs.reset_resPos : (Regs.reset c).resPos = 0 := rfl
@[simp] theorem Regs.reset_resMism : (Regs.reset c).resMism = 0 := rfl
@[simp] theorem Regs.reset_resRange : (Regs.reset c).resRange = false := rfl
@[simp] theorem Regs.reset_resFlt : (Regs.reset c).resFlt = 0 := rfl
@[simp] theorem Regs.reset_rspValid : (Regs.reset c).rspValid = false := rfl

@[simp] theorem State.reset_regs : State.reset.regs = Regs.reset Config.w11 := rfl
@[simp] theorem State.reset_port : State.reset.port = [] := rfl
@[simp] theorem State.withFetchWord_regs (s : State) (nbits w : Nat) : (s.withFetchWord nbits w).regs = s.regs := rfl

end Sys2Proof.Machine
end

