-- ==== Sys2Proof/Laws/Ops.lean ====
section
/-! SUPPORT. One lemma per shared register operation, saying all of what it leaves. -/

namespace Sys2Proof.Machine

variable {c : Config} (r : Regs c)

/-- Writing a result that fits the bus leaves a record the host reads back as that result, and nothing else changes. -/
theorem Regs.putResult_spec (op : BitVec 3) {out : BitSeq} (h : out.length ≤ c.NMAX) :
    (r.putResult op out).plainRecord op out 0 ∧ r.sameCounters (r.putResult op out) ∧
      (r.putResult op out).status = r.status := by
  have hl : (BitVec.ofNat c.LW out.length).toNat = out.length := by
    rw [BitVec.toNat_ofNat]
    exact Nat.mod_eq_of_lt (lt_of_le_of_lt h (NMAX_lt_two_pow_LW c))
  refine ⟨⟨rfl, hl, ?_, ?_, rfl, rfl, rfl, rfl, rfl, rfl, rfl⟩, ⟨rfl, rfl, rfl⟩, rfl⟩
  · simp only [Regs.result, Regs.putResult_resBits, Regs.putResult_resLen, hl, vecOf_toNat h, seqOf_vecNat]
  · simpa [vecOf_toNat h] using vecNat_lt out

/-- A recorded fault: the empty record with the op code and fault code, the sticky bit set, the counters unchanged. -/
theorem Regs.recordFault_spec (op : BitVec 3) (code mask : BitVec 2) :
    (r.recordFault op code mask).plainRecord op [] code ∧ r.sameCounters (r.recordFault op code mask) ∧
      (r.recordFault op code mask).status = r.status ||| mask := by
  refine ⟨⟨rfl, ?_, ?_, ?_, rfl, rfl, rfl, rfl, rfl, rfl, rfl⟩, ⟨rfl, rfl, rfl⟩, rfl⟩ <;> simp [Regs.result, seqOf]

/-- An idle edge changes the handshake bit alone. -/
theorem Regs.idle_spec : r.sameRecord r.idle ∧ r.sameCounters r.idle ∧ r.idle.status = r.status ∧
    r.idle.rspValid = false := by simp [Regs.sameRecord, Regs.sameCounters]

/-- The counters after a checked block: one of the three cases of 43_decoder.md R89. -/
theorem Regs.countBlock_spec (M : List Nat) (n : Nat) :
    (M = [] ∧ r.countsOk (r.countBlock M n)) ∨
    (M ≠ [] ∧ M.sum ≤ n ∧ r.countsRepair (r.countBlock M n)) ∨
    (M ≠ [] ∧ n < M.sum ∧ (r.countBlock M n).cntOk = r.cntOk ∧ (r.countBlock M n).cntErr = r.cntErr + 1 ∧
      (r.countBlock M n).cntFix = r.cntFix) := by
  rcases M with _ | ⟨p, M⟩
  · exact .inl ⟨rfl, rfl, rfl, rfl⟩
  · rcases Nat.lt_or_ge n (p :: M).sum with h | h
    · have hf : flipApplied (p :: M) n = false := by
        change (true && !(true && decide (n < (p :: M).sum))) = false
        rw [decide_eq_true h]; rfl
      exact .inr (.inr ⟨List.cons_ne_nil _ _, h, rfl, rfl, by rw [Regs.countBlock_cntFix, hf]; rfl⟩)
    · have hf : flipApplied (p :: M) n = true := by
        change (true && !(true && decide (n < (p :: M).sum))) = true
        rw [decide_eq_false (Nat.not_lt.mpr h)]; rfl
      exact .inr (.inl ⟨List.cons_ne_nil _ _, h, rfl, rfl, by rw [Regs.countBlock_cntFix, hf]; rfl⟩)

end Sys2Proof.Machine
end

