-- ==== Sys2Proof/Laws/PerInstr.lean ====
section
/-! SUPPORT. Facts about every command as it is written, one lemma per constructor. -/

namespace Sys2Proof.Laws.EncodesOp

/-- The low three bits of a command's word are its op code (spec 30_encoding.md R53). -/
def Statement (i : Instr) : Prop := ∀ c : Config, encode c i % 8 = i.opcode

/-- Shifting the operand fields above bit 2 leaves the op field alone. -/
theorem low_bits (c : Config) (i : Instr) (h : i.opcode < 8) : encode c i % 8 = i.opcode := by
  have h3 : (2 : Nat) ^ 3 = 8 := rfl
  simp only [encode, Nat.shiftLeft_eq, Nat.pow_add, h3]
  rw [← Nat.mul_assoc, Nat.add_mul_mod_self_right, Nat.add_mul_mod_self_right, Nat.mod_eq_of_lt h]

theorem nop (len bits : Nat) : Statement (.nop len bits) := fun c => low_bits c _ (Nat.lt_of_sub_eq_succ rfl)
theorem enc (len bits : Nat) : Statement (.enc len bits) := fun c => low_bits c _ (Nat.lt_of_sub_eq_succ rfl)
theorem dec (len bits : Nat) : Statement (.dec len bits) := fun c => low_bits c _ (Nat.lt_of_sub_eq_succ rfl)
theorem decfix (len bits : Nat) : Statement (.decfix len bits) := fun c => low_bits c _ (Nat.lt_of_sub_eq_succ rfl)
theorem clrstat (len bits : Nat) : Statement (.clrstat len bits) := fun c => low_bits c _ (Nat.lt_of_sub_eq_succ rfl)
theorem reserved101 (len bits : Nat) : Statement (.reserved101 len bits) := fun c => low_bits c _ (Nat.lt_of_sub_eq_succ rfl)
theorem reserved110 (len bits : Nat) : Statement (.reserved110 len bits) := fun c => low_bits c _ (Nat.lt_of_sub_eq_succ rfl)
theorem reserved111 (len bits : Nat) : Statement (.reserved111 len bits) := fun c => low_bits c _ (Nat.lt_of_sub_eq_succ rfl)

end Sys2Proof.Laws.EncodesOp
end

