-- ==== Sys2Proof/Laws/Step.lean ====
section
/-! SUPPORT. What a command and a step can do, said once. -/

namespace Sys2Proof.Machine

variable {c : Config} (r : Regs c)

@[simp] theorem perform_nop (len bits : Nat) : r.perform (.nop len bits) = r.idle := rfl

@[simp] theorem perform_enc (len bits : Nat) : r.perform (.enc len bits) = r.enc len bits := rfl

@[simp] theorem perform_dec (len bits : Nat) : r.perform (.dec len bits) = r.dec len bits := rfl

@[simp] theorem perform_decfix (len bits : Nat) : r.perform (.decfix len bits) = r.decfix len bits := rfl

@[simp] theorem perform_clrstat (len bits : Nat) : r.perform (.clrstat len bits) = r.clrstat := rfl

@[simp] theorem perform_reserved101 (len bits : Nat) : r.perform (.reserved101 len bits) = r.illegalOp 5 := rfl

@[simp] theorem perform_reserved110 (len bits : Nat) : r.perform (.reserved110 len bits) = r.illegalOp 6 := rfl

@[simp] theorem perform_reserved111 (len bits : Nat) : r.perform (.reserved111 len bits) = r.illegalOp 7 := rfl

/-- A command answers a next state, with the same schedule: only registers change. -/
theorem exec_answers_next (i : Instr) (s : State) :
    ∃ r' : Regs Config.w11, exec i s = .next { s with regs := r' } := by
  cases i <;> exact ⟨_, rfl⟩

/-- Everything an edge of the unit can do: reset, perform the presented command, or idle. -/
theorem unitStep_cases (x : Cycle c) :
    (x.rst = true ∧ unitStep c r x = Regs.reset c) ∨
    (x.rst = false ∧ x.cmdValid = true ∧ unitStep c r x = r.perform x.instr) ∨
    (x.rst = false ∧ x.cmdValid = false ∧ unitStep c r x = r.idle) := by
  cases hr : x.rst <;> cases hv : x.cmdValid <;> simp [unitStep, Cycle.accepts, hr, hv]

/-- Everything a step can do: an edge beyond the schedule is idle; otherwise the edge resets, performs the presented
command, or is idle. -/
theorem step_cases (s : State) :
    (s.port = [] ∧ step s = .next ⟨s.regs.idle, []⟩) ∨
    ∃ x rest, s.port = x :: rest ∧
      ((x.rst = true ∧ step s = .next ⟨Regs.reset Config.w11, rest⟩) ∨
       (x.rst = false ∧ x.cmdValid = true ∧ step s = exec x.instr ⟨s.regs, rest⟩) ∨
       (x.rst = false ∧ x.cmdValid = false ∧ step s = .next ⟨s.regs.idle, rest⟩)) := by
  obtain ⟨r, _ | ⟨x, rest⟩⟩ := s
  · exact .inl ⟨rfl, rfl⟩
  · refine .inr ⟨x, rest, rfl, ?_⟩
    cases hr : x.rst <;> cases hv : x.cmdValid <;> simp [step, clockEdge, Cycle.accepts, hr, hv]

end Sys2Proof.Machine
end

