-- ==== Sys2Proof/Tests/Slice0.lean ====
section
/-! SUPPORT. Tests on the spec's own vectors (95_test_vectors.md), the smoke tests of the well-formedness checks, and
the witnesses of the obligations' hypotheses. Expected values are copied from the spec's tables, which derive them from
the rules. -/

namespace Sys2Proof.Tests

open Sys2Proof Sys2Proof.Machine

/-- Units of other word lengths that the spec's tables use. -/
def c1 : Config := ⟨1, 32, by decide⟩
def c4 : Config := ⟨4, 32, by decide⟩
def c6 : Config := ⟨6, 32, by decide⟩
def c8 : Config := ⟨8, 32, by decide⟩
def c71 : Config := ⟨71, 32, by decide⟩

/-- The registers a command leaves, from reset, on a unit of configuration `c`. -/
def after (c : Config) (i : Instr) : Regs c := (Regs.reset c).perform i

/-- What a command shows of its result after reset: op, length, bits, fault code, STATUS. -/
def shows (c : Config) (i : Instr) : List Nat :=
  [(after c i).resOp.toNat, (after c i).resLen.toNat, (after c i).resBits.toNat, (after c i).resFlt.toNat,
    (after c i).status.toNat]

/-- What a command shows of its check after reset: position, mismatch vector, RES_RANGE, and the three counters. -/
def checks (c : Config) (i : Instr) : List Nat :=
  [(after c i).resPos.toNat, (after c i).resMism.toNat, (after c i).resRange.toNat, (after c i).cntOk.toNat,
    (after c i).cntErr.toNat, (after c i).cntFix.toNat]

/-! ### Well-formedness smoke: each check refuses its ill-formed term -/

theorem test_len_too_wide_is_refused : (Instr.enc 16 0).wf Config.w11 = false := by decide
theorem test_bits_too_wide_is_refused : (Instr.dec 15 0x8000).wf Config.w11 = false := by decide
theorem test_widest_command_is_wellformed : (Instr.reserved111 15 0x7FFF).wf Config.w11 = true := by decide
theorem test_zero_word_length_is_refused : Config.elaborate 0 = .error .wordLengthNotPositive := by decide
theorem test_negative_word_length_is_refused : Config.elaborate (-3) = .error .wordLengthNotPositive := by decide

/-! ### Derived widths: the configuration table of 95_test_vectors.md -/

theorem test_widths_w1 : (P c1.W, c1.K, c1.NMAX, c1.LW, c1.CW) = ([1], 1, 2, 2, 7) := by decide
theorem test_widths_w8 : (P c8.W, c8.K, c8.NMAX, c8.LW, c8.CW) = ([1, 2, 4, 8], 4, 12, 4, 19) := by decide
theorem test_widths_w71 : (P c71.W, c71.K, c71.NMAX, c71.LW, c71.CW) = ([1, 2, 4, 8, 16, 32, 64], 7, 78, 7, 88) := by decide

/-! ### Decoding: words written from 30_encoding.md R53 and R54, bits | len | op -/

theorem test_decode_nop : decodeWord Config.w11 0b000000000000000_0000_000 = .ok (.nop 0 0) := by decide
theorem test_decode_enc : decodeWord Config.w11 0b000010111001101_1011_001 = .ok (.enc 11 0x5CD) := by decide
theorem test_decode_dec : decodeWord Config.w11 0b101110001001111_1111_010 = .ok (.dec 15 0x5C4F) := by decide
theorem test_decode_decfix : decodeWord Config.w11 0b101110001101111_1111_011 = .ok (.decfix 15 0x5C6F) := by decide
theorem test_decode_clrstat : decodeWord Config.w11 0b000000100100011_1001_100 = .ok (.clrstat 9 0x123) := by decide
theorem test_decode_reserved101 : decodeWord Config.w11 0b000000000000000_0000_101 = .ok (.reserved101 0 0) := by decide
theorem test_decode_reserved110 : decodeWord Config.w11 0b000000000000000_0000_110 = .ok (.reserved110 0 0) := by decide
theorem test_decode_reserved111 : decodeWord Config.w11 0b111111111111111_1111_111 = .ok (.reserved111 15 0x7FFF) := by decide
theorem test_decode_refuses_a_wider_number : decodeWord Config.w11 0x400000 = .error .widerThanCommandWord := by decide
/-- The listing of 30_encoding.md R64. -/
theorem test_encode_listing_word : encode Config.w11 (.enc 11 0x5CD) = 0x2E6D9 := by decide
theorem test_encode_word_of_w71 : encode c71 (.decfix 20 0x82082) = 0x208208A3 := by decide
theorem test_table_word : decodeTableWord 8 0b101 = some (.reserved101 0 0) := by decide

/-! ### BitBlock utilities: 95_test_vectors.md sections 1.1 and 2.1 -/

theorem test_control_bits_of_zero : getControlBits 0 = [] := by decide
theorem test_control_bits_of_78 : getControlBits 78 = [1, 2, 4, 8, 16, 32, 64] := by decide
theorem test_pexp_78 : pexp 78 = [2, 4, 8, 64] := by decide
theorem test_pexp_0 : pexp 0 = [] := by decide
theorem test_present_set_8 : Q 11 8 = [1, 2, 4] := by decide
theorem test_cov_4 : cov 11 4 15 = [5, 6, 7, 12, 13, 14, 15] := by decide
theorem test_classes_w6 : (posClass 6 4, posClass 6 7, posClass 6 8, posClass 6 9) =
    (.control, .fullyCovered, .uncovered, .partlyCovered) := by decide
theorem test_agree_w11 : ((positions 11).filter fun L => !agree 11 L) = [2, 3, 4, 6, 7, 8] := by decide

/-! ### Commands: 95_test_vectors.md sections 2.2 to 2.6 -/

theorem test_enc_worked_example : shows Config.w11 (.enc 11 0x5CD) = [1, 15, 0x5C6F, 0, 0] := by decide
theorem test_enc_ignores_bits_above_len : shows Config.w11 (.enc 5 0x7ED) = [1, 8, 0x66, 0, 0] := by decide
theorem test_dec_passes_data_error : shows Config.w11 (.dec 15 0x5C4F) = [2, 11, 0x5C9, 0, 0] := by decide
theorem test_dec_power_of_two_word : shows c8 (.dec 11 0x667) = [2, 7, 0x6D, 0, 0] := by decide
theorem test_decfix_repairs_bit_6 : shows Config.w11 (.decfix 15 0x5C4F) = [3, 11, 0x5CD, 0, 0] ∧
    checks Config.w11 (.decfix 15 0x5C4F) = [6, 6, 0, 0, 1, 1] := by decide
/-- Program P4: the localized position 7 lies beyond a block of 5. -/
theorem test_decfix_out_of_range : shows c4 (.decfix 5 0xC) = [3, 2, 0x1, 0, 0] ∧
    checks c4 (.decfix 5 0xC) = [7, 7, 1, 0, 1, 0] := by decide
/-- Section 2.5: `CLRSTAT` clears the counters and leaves STATUS alone. -/
theorem test_clrstat_keeps_status :
    let r := ({ Regs.reset Config.w11 with cntOk := 1, cntErr := 1, cntFix := 1, status := 3 } : Regs Config.w11).perform
      (.clrstat 9 0x123)
    [r.cntOk.toNat, r.cntErr.toNat, r.cntFix.toNat, r.status.toNat, r.resOp.toNat] = [0, 0, 0, 3, 4] := by decide
theorem test_nop_keeps_the_record :
    let r := ({ Regs.reset Config.w11 with resBits := 0x5C6F, rspValid := true } : Regs Config.w11).perform (.nop 3 1)
    (r.resBits.toNat, r.rspValid) = (0x5C6F, false) := by decide
theorem test_reserved101_fault : shows Config.w11 (.reserved101 0 0) = [5, 0, 0, 1, 1] := by decide
theorem test_reserved110_fault : shows Config.w11 (.reserved110 0 0) = [6, 0, 0, 1, 1] := by decide
theorem test_reserved111_fault : shows Config.w11 (.reserved111 15 0x7FFF) = [7, 0, 0, 1, 1] := by decide
theorem test_enc_len_fault : shows Config.w11 (.enc 12 0x7FF) = [1, 0, 0, 2, 2] := by decide
theorem test_decfix_len_fault : shows c8 (.decfix 13 0) = [3, 0, 0, 2, 2] ∧
    checks c8 (.decfix 13 0) = [0, 0, 0, 0, 0, 0] := by decide
/-- `5 mod 4 = 1` (section 2.7): a counter of two bits at 3 wraps to 0. -/
theorem test_counter_wraps : bump (3#2) true = 0#2 := by decide

/-! ### Clock edges, text, streams -/

/-- The word of 30_encoding.md R64 presented after reset runs as the first command. -/
theorem test_first_word_after_reset :
    step (State.reset.withFetchWord 24 0x2E6D9) = exec (.enc 11 0x5CD) State.reset := rfl
/-- The machine's `exec` and the unit's command agree on the worked example. -/
theorem test_exec_enc : exec (.enc 11 0x5CD) State.reset = .next ⟨after Config.w11 (.enc 11 0x5CD), []⟩ := rfl
theorem test_reset_wins_over_a_command :
    step ⟨{ Regs.reset Config.w11 with status := 3 },
      [{ Cycle.ofInstr Config.w11 (.reserved111 0 0) with rst := true }]⟩ = .next State.reset := rfl
theorem test_no_outputs_before_reset :
    ((Boot.unreset : Boot c8).run [Cycle.ofInstr c8 (.enc 1 1)]).outputs = none := by decide
theorem test_assemble_enc : assembleWords Config.w11 (.enc ['1', '0', '1', '1', '0', '0', '1', '1', '1', '0', '1']) =
    .ok [0x2E6D9] := by decide
theorem test_assemble_refuses_other_characters : assemble Config.w11 (.dec ['1', '2']) = .error .notBinary := by decide
theorem test_parse_raw_command :
    parseLine ['.', 'c', 'm', 'd', ' ', '7', ',', ' ', '1', '5', ',', ' ', '0', 'x', '7', 'F', 'F', 'F', ' ', ';', 'x'] =
      .ok (some (.cmd 7 15 0x7FFF)) := by decide
theorem test_parse_string_form : parseLine ['E', 'N', 'C', ' ', '"', '0', '1', '"'] = .ok (some (.enc ['0', '1'])) := by decide
theorem test_decode_pseudo_of_empty_string : assemble c4 (.decodeFixAll []) = .ok [.clrstat 0 0] := by decide
/-- Program P2's payload in two chunks. -/
theorem test_chunks : (chunks 11 (seqOf 0xB5CD 16)).map List.length = [11, 5] := by decide

/-! ### Witnesses: states and operands that meet the hypotheses of the obligations -/

theorem witness_DecodeOfEncode : (Instr.enc 15 0x7FFF).wf Config.w11 = true ∧ (Instr.nop 0 0).wf c1 = true := by decide
theorem witness_EveryWordSpellsOneCommand : (0x3FFFFF : Nat) < 2 ^ Config.w11.CW ∧ 0 < 2 ^ c1.CW := by decide
theorem witness_StepRunsTheDecodedCommand :
    (Cycle.ofInstr Config.w11 (.enc 11 0x5CD)).cmdValid = true ∧ (Cycle.ofInstr Config.w11 (.enc 11 0x5CD)).rst = false ∧
    (Instr.enc 11 0x5CD).wf Config.w11 = true ∧ decodeWord Config.w11 0x2E6D9 = .ok (.enc 11 0x5CD) ∧
    (0x2E6D9 : Nat) < 2 ^ 22 := by decide
theorem witness_ResetEdgeWinsOverCommand : (Cycle.assertReset Config.w11).rst = true := by decide
theorem witness_RspValidMarksNewRecord :
    ({ Cycle.ofInstr c8 (.enc 1 1) with cmdValid := false } : Cycle c8).rst = false ∧
    ¬(({ Cycle.ofInstr c8 (.enc 1 1) with cmdValid := false } : Cycle c8).cmdValid = true ∧ (1 : BitVec 3) ≠ 0) := by decide
theorem witness_BeforeTheFirstResetNothingIsKnown :
    (∀ x ∈ [Cycle.ofInstr c8 (.enc 1 1)], x.rst = false) ∧ (Cycle.assertReset c8).rst = true := by decide
theorem witness_EveryStepKeepsTheInvariant : (Regs.reset c71).Inv ∧
    (State.reset.withFetchWord 22 0x3FFFFF).Inv ∧ ∃ t, step (State.reset.withFetchWord 22 0x3FFFFF) = .next t :=
  ⟨by decide, by decide, _, rfl⟩
theorem witness_StatusBitsAreSticky : (Cycle.ofInstr c8 (.clrstat 0 0)).rst = false ∧
    ({ Regs.reset c8 with status := 2 } : Regs c8).status.getLsbD 1 = true := by decide
/-- The clause about `step`, at an edge beyond the schedule. -/
theorem witness_StatusBitsAreSticky_beyond_schedule :
    (∀ x rest, (⟨{ Regs.reset Config.w11 with status := 2 }, []⟩ : State).port = x :: rest → x.rst = false) ∧
    (∃ t, step ⟨{ Regs.reset Config.w11 with status := 2 }, []⟩ = .next t) ∧ (2#2).getLsbD 1 = true :=
  ⟨(fun _ _ h => nomatch h), ⟨_, rfl⟩, by decide⟩
theorem witness_NopOnlyClearsRspValid : ({ Cycle.assertReset c8 with rst := false } : Cycle c8).rst = false ∧
    ({ Cycle.assertReset c8 with rst := false } : Cycle c8).cmdValid = false := by decide
theorem witness_EncWritesTheCodeBlock : (1 ≤ 1 ∧ 1 ≤ Config.w11.W) ∧ (1 ≤ 11 ∧ 11 ≤ Config.w11.W) := by decide
theorem witness_DecStripsControlBits : (1 ≤ 1 ∧ 1 ≤ Config.w11.NMAX) ∧ (1 ≤ 15 ∧ 15 ≤ Config.w11.NMAX) := by decide
theorem witness_DecfixChecksRepairsAndCounts_clean : (1 ≤ 15 ∧ 15 ≤ Config.w11.NMAX) ∧
    treeMismatches 11 (seqOf 0x5C6F 15) = [] := by decide
theorem witness_DecfixChecksRepairsAndCounts_repair : treeMismatches 11 (seqOf 0x1C6F 15) = [1, 2, 4, 8] ∧
    [1, 2, 4, 8].sum ≤ 15 := by decide
theorem witness_DecfixChecksRepairsAndCounts_beyond : (1 ≤ 5 ∧ 5 ≤ c4.NMAX) ∧
    treeMismatches 4 (seqOf 0xC 5) = [1, 2, 4] ∧ 5 < [1, 2, 4].sum := by decide
theorem witness_ReservedOpsRecordIllegalOp :
    (Instr.reserved110 15 0x7FFF = .reserved101 15 0x7FFF ∧ 0b110#3 = 0b101#3 ∨
      Instr.reserved110 15 0x7FFF = .reserved110 15 0x7FFF ∧ 0b110#3 = 0b110#3 ∨
      Instr.reserved110 15 0x7FFF = .reserved111 15 0x7FFF ∧ 0b110#3 = 0b111#3) := by decide
theorem witness_illegal_lengths :
    ((0 : Nat) = 0 ∨ Config.w11.W < 0) ∧ (12 = 0 ∨ Config.w11.W < 12) ∧ ((13 : Nat) = 0 ∨ c8.NMAX < 13) := by decide
theorem witness_FaultsAreRaisedByBadOpsAndLengthsOnly :
    faultCode Config.w11 (.enc 12 0) = 2 ∧ faultCode Config.w11 (.enc 11 0) = 0 ∧ faultCode c8 (.dec 13 0) = 2 ∧
    faultCode c8 (.decfix 12 0) = 0 ∧ faultCode c8 (.reserved111 0 0) = 1 ∧ faultCode c8 (.nop 0 0) = 0 ∧
    (Instr.nop 0 0).opcode = 0 := by decide
theorem witness_FrameOfEncAndDec : (∃ t, exec (.enc 11 0x5CD) State.reset = .next t) ∧
    (∃ t, exec (.dec 15 0x5C6F) State.reset = .next t) ∧ (1 ≤ 11 ∧ 11 ≤ Config.w11.W) ∧
    (1 ≤ 15 ∧ 15 ≤ Config.w11.NMAX) := ⟨⟨_, rfl⟩, ⟨_, rfl⟩, by decide, by decide⟩
theorem witness_FrameOfDecfix : (∃ t, exec (.decfix 15 0x5C4F) State.reset = .next t ∧ t.regs.resErr = true) ∧
    (∃ t, exec (.decfix 15 0x5C6F) State.reset = .next t ∧ t.regs.resErr = false) ∧
    (∃ t, exec (.decfix 0 0) State.reset = .next t) ∧
    ((∃ t, exec (.decfix 16 0) State.reset = .next t) ∧ Config.w11.NMAX < 16) ∧ c8.NMAX < 13 ∧
    ((Regs.reset c4).perform (.decfix 5 0xC)).resRange = true :=
  ⟨⟨_, rfl, by decide⟩, ⟨_, rfl, by decide⟩, ⟨_, rfl⟩, ⟨⟨_, rfl⟩, by decide⟩, by decide, by decide⟩

/-- `RES_RANGE = 1` on the machine itself (`W = 11`): five bits with mismatches at 1, 2 and 4. -/
theorem witness_FrameOfDecfix_beyond :
    ∃ t, exec (.decfix 5 0xC) State.reset = .next t ∧ t.regs.resRange = true := ⟨_, rfl, by decide⟩
theorem witness_FrameOfControlCommands : (∃ t, exec (.nop 0 0) State.reset = .next t) ∧
    (∃ t, exec (.clrstat 0 0) State.reset = .next t) ∧
    (∃ t, exec (.reserved111 0 0) State.reset = .next t) ∧ isReserved (.reserved111 0 0) = true :=
  ⟨⟨_, rfl⟩, ⟨_, rfl⟩, ⟨_, rfl⟩, rfl⟩
theorem witness_OperandBitsAboveLenAreIgnored : (0x7ED : Nat) % 2 ^ 5 = 0xD % 2 ^ 5 ∧
    Instr.enc 5 0x7ED = .enc 5 0x7ED ∧ Instr.enc 5 0xD = .enc 5 0xD := by decide
theorem witness_RepeatingEncOrDecIsIdempotent : (∃ t, exec (.enc 1 1) State.reset = .next t) ∧
    (∃ t, exec (.dec 1 1) State.reset = .next t) ∧
    (1 ≤ Config.w11.NMAX ∧ 1 ≤ Config.w11.cntW ∧
      ∃ t u, exec (.decfix 1 1) State.reset = .next t ∧ exec (.decfix 1 1) t = .next u) :=
  ⟨⟨_, rfl⟩, ⟨_, rfl⟩, by decide, by decide, _, _, rfl, rfl⟩
theorem witness_CountersAccountForEveryDecfix :
    (∀ i ∈ [Instr.decfix 5 0xC, .enc 1 1, .reserved101 0 0], isClear i = false) ∧
    (Regs.reset c4).cntOk = 0 ∧ (Regs.reset c4).cntErr = 0 ∧ (Regs.reset c4).cntFix = 0 ∧
    [Instr.decfix 5 0xC, .enc 1 1, .reserved101 0 0].countP (isCheckedDecode c4) < 2 ^ c4.cntW ∧
    [Instr.decfix 5 0xC, .enc 1 1, .reserved101 0 0].countP (isOutOfRangeDecode c4) = 1 := by decide
theorem witness_SplitDecodeCountersAddUp :
    (∀ x ∈ [seqOf 0xC 5] ++ [seqOf 0x74 7], x.length ≤ c4.NMAX) ∧
    [seqOf 0x74 7, seqOf 0xC 5].Perm ([seqOf 0xC 5] ++ [seqOf 0x74 7]) ∧
    (Regs.reset c4).sameCounters (Regs.reset c4) := by decide
theorem witness_NonPositiveWordLengthIsRefused : (0 : Int) ≤ 0 ∧ (1 : Int) ≤ 1 := by decide
theorem witness_ControlPositionsArePowersOfTwo : (0 : Int) ≤ 0 ∧ 1 ≤ (1 : Nat) := by decide
theorem witness_ParityCountIsCeilLog : (1 ≤ 1 ∧ 1 ≤ 11) ∧ (1 ≤ 11 ∧ 11 ≤ 11) ∧ c8.W < 9 := by decide
theorem witness_CoverageClassesOfPositions : (1 ≤ 8 ∧ posClass c6.W 8 = .uncovered) ∧
    (1 ≤ 9 ∧ posClass c6.W 9 = .partlyCovered) := by decide
/-- Meets the hypotheses of every statement about a data block `d`, `1 <= L <= W`, at both ends of its range. -/
theorem witness_data_block : (1 ≤ (seqOf 1 1).length ∧ (seqOf 1 1).length ≤ 11) ∧
    (1 ≤ (seqOf 0x5CD 11).length ∧ (seqOf 0x5CD 11).length ≤ 11) := by decide
theorem witness_ParityMapIsXorTrees : 1 ∈ P 11 ∧ 8 ∈ P 11 := by decide
theorem witness_CodeBlockBits : 1 ≤ (seqOf 0x5CD 11).length ∧ (seqOf 0x5CD 11).length ≤ 11 ∧ 8 ∈ Q 11 (seqOf 0x5CD 11).length ∧
    (1 ≤ 11 ∧ 11 ≤ (seqOf 0x5CD 11).length) := by decide
theorem witness_CodeBlockLength : (seqOf 0x5CD 11).length = Config.w11.W ∧ (seqOf 0xCD 8).length = c8.W ∧ powerOfTwo c8.W :=
  ⟨by decide, by decide, 3, by decide⟩
theorem witness_CodeBlockLength_noPower : ¬powerOfTwo Config.w11.W := by
  rintro ⟨k, hk⟩
  have hk' : (11 : Nat) = 2 ^ k := hk
  have h : k < 4 := (Nat.pow_lt_pow_iff_right (by decide : 1 < 2)).mp (hk' ▸ (by decide : 11 < 2 ^ 4))
  interval_cases k <;> omega
theorem witness_DataAtControlPositionIsUnprotected : 1 ≤ (seqOf 0xCD 8).length ∧ (seqOf 0xCD 8).length ≤ 8 ∧ 8 ∈ P 8 ∧
    (seqOf 0xCD 8).length ≤ 8 ∧ 8 ≤ (seqOf 0xCD 8).length + parityCount 8 (seqOf 0xCD 8).length := by decide
theorem witness_StrippedLengthFits : (1 ≤ (seqOf 1 1).length ∧ (seqOf 1 1).length ≤ Config.w11.NMAX) ∧
    (1 ≤ (seqOf 0x7FFF 15).length ∧ (seqOf 0x7FFF 15).length ≤ Config.w11.NMAX) := by decide
theorem witness_LocalizedPositionFits : mismatches Config.w11.W (seqOf 0x1C6F 15) ≠ [] ∧
    mismatches Config.w11.W (seqOf 0x5C6F 15) = [] := by decide
theorem witness_RepairFlipsAtMostOneBit : 1 ≤ 11 ∧ mismatches 11 (seqOf 0x1C6F 15) ≠ [] ∧
    (mismatches 11 (seqOf 0x1C6F 15)).sum ≤ (seqOf 0x1C6F 15).length ∧
    (1 ≤ 15 ∧ 15 ≤ (seqOf 0x1C6F 15).length) := by decide
theorem witness_ControlSetsAgreeExactlyWhenAgree : (1 ≤ 8 ∧ 8 ≤ 11 ∧ agree 11 8 = false) ∧
    (1 ≤ 9 ∧ 9 ≤ 11 ∧ agree 11 9 = true) := by decide
theorem witness_BlockRoundTripExactlyWhenAgree : agree Config.w11.W (seqOf 0x5CD 11).length = true ∧
    agree Config.w11.W (seqOf 2 2).length = false ∧
    bitAt (encodeBlock 11 (seqOf 2 2)) 2 ≠ parityTree 11 (encodeBlock 11 (seqOf 2 2)) 2 ∧
    bitAt (encodeBlock 11 (seqOf 3 2)) 2 = parityTree 11 (encodeBlock 11 (seqOf 3 2)) 2 := by decide
theorem witness_SingleErrorCorrectedExactlyWhenCovered :
    agree c6.W (seqOf 0x2D 6).length = true ∧ (encodeBlock c6.W (seqOf 0x2D 6)).length = 9 ∧
    correctable c6.W 9 1 ∧ ¬correctable c6.W 9 8 ∧ posClass c6.W 8 = .uncovered ∧
    ¬correctable c6.W 9 9 ∧ posClass c6.W 9 = .partlyCovered := by decide
/-- A control position outside `Q(N)`: `W = 11`, `L = 5`, `j = N = 8`. -/
theorem witness_SingleErrorCorrectedExactlyWhenCovered_control :
    agree Config.w11.W (seqOf 0xD 5).length = true ∧ (1 ≤ 8 ∧ 8 ≤ (encodeBlock Config.w11.W (seqOf 0xD 5)).length) ∧
    ¬correctable Config.w11.W (encodeBlock Config.w11.W (seqOf 0xD 5)).length 8 ∧
    posClass Config.w11.W 8 = .control := by decide
theorem witness_EverySingleErrorCorrectableExactlyWhen : 1 ≤ 11 ∧ 11 ≤ 11 ∧ agree 11 11 = true ∧
    11 + parityCount 11 11 < 2 ^ parityCount 11 11 := by decide
theorem witness_DecPassesDataErrorsThrough : agree Config.w11.W (seqOf 0x5CD 11).length = true ∧
    (1 ≤ 15 ∧ 15 ≤ (encodeBlock Config.w11.W (seqOf 0x5CD 11)).length) ∧
    15 ∉ Q Config.w11.W (encodeBlock Config.w11.W (seqOf 0x5CD 11)).length := by decide
theorem witness_AssemblerRefusesBadStrings : (∃ ch ∈ ['1', 'x'], ch ≠ '0' ∧ ch ≠ '1') ∧
    (∀ ch ∈ ['1', '0', '1', '1'], ch = '0' ∨ ch = '1') ∧ c1.NMAX < ['1', '0', '1', '1'].length ∧
    ['1', '0', '1', '1'].length ≤ Config.w11.NMAX :=
  ⟨⟨'x', by simp, by decide, by decide⟩, by simp, by decide, by decide⟩

end Sys2Proof.Tests
end

section
/-! Elaboration of a unit (spec 00_scope.md R6, R9): which word lengths are refused, and that every configuration is
the elaboration of its own parameters. -/

namespace Sys2Proof

theorem Config.elaborate_of_nonpos {w : Int} (hw : w ≤ 0) (cntW : Nat) :
    Config.elaborate w cntW = .error .wordLengthNotPositive :=
  dif_neg (by omega)

/-- The word length and the counter width determine the configuration: its third field is a proof. -/
@[simp] theorem Config.elaborate_params (c : Config) : Config.elaborate c.W c.cntW = .ok c :=
  dif_pos c.W_pos

/-- Settles O27: `w <= 0` fails the elaboration's test, and for `w >= 1` the configuration is the one with these two
parameters, whatever the counter width (log entry 8). -/
theorem nonPositiveWordLengthIsRefused : Obligations.NonPositiveWordLengthIsRefused := by
  intro w cntW
  constructor
  · intro hw
    exact Config.elaborate_of_nonpos hw cntW
  · intro hw
    lift w to Nat using by omega
    have hpos : 1 ≤ w := by omega
    exact ⟨⟨w, cntW, hpos⟩, Config.elaborate_params ⟨w, cntW, hpos⟩, rfl, rfl⟩

end Sys2Proof
end

section
/-! The control positions as a list of powers of two (spec 41_bitblock.md R67, R68, R71), and the block lengths that
follow from it: how many bits deletion and insertion at control positions leave (42_encoder.md R75, R81; 43_decoder.md
R90, R91). -/

namespace Sys2Proof.Machine

/-- The loop of R67 started at `2 ^ j` collects the powers of two from there up to `n`, when its fuel reaches them. -/
theorem controlLoop_two_pow (n fuel j : Nat) (h : n.size ≤ fuel + j) :
    controlLoop n fuel (2 ^ j) = (List.range' j (n.size - j)).map (2 ^ ·) := by
  induction fuel generalizing j with
  | zero => simp [controlLoop, show n.size - j = 0 by omega]
  | succ fuel ih =>
    rw [controlLoop, ← Nat.pow_succ', ih (j + 1) (by omega)]
    by_cases hj : j < n.size
    · have hsplit : n.size - j = n.size - (j + 1) + 1 := by omega
      rw [if_pos (Nat.lt_size.mp hj), hsplit, List.range'_succ, List.map_cons]
    · have hle : ¬2 ^ j ≤ n := fun hle => hj (Nat.lt_size.mpr hle)
      rw [if_neg hle, show n.size - j = 0 by omega, List.range'_zero, List.map_nil]

/-- `P` holds the powers of two up to `W`, ascending (R68). -/
theorem P_eq_map_two_pow (W : Nat) : P W = (List.range W.size).map (2 ^ ·) := by
  have hfuel : W.size ≤ W + 0 := Nat.size_le.mpr Nat.lt_two_pow_self
  simpa [P, getControlBits, List.range_eq_range'] using controlLoop_two_pow W W 0 hfuel

/-- `K` is the binary size of `W` (spec 00_scope.md R7). -/
theorem size_W (c : Config) : c.W.size = c.K := by
  apply le_antisymm
  · exact Nat.size_le.mpr (W_lt_two_pow_K c)
  · have : c.K - 1 < c.W.size := Nat.lt_size.mpr (two_pow_K_le c)
    omega

@[simp] theorem P_length (c : Config) : (P c.W).length = c.K := by simp [P_eq_map_two_pow, size_W]

theorem P_ascending (W : Nat) : (P W).Pairwise (· < ·) := by
  rw [P_eq_map_two_pow, List.pairwise_map]
  exact List.pairwise_lt_range.imp fun h => Nat.pow_lt_pow_right (by omega) h

theorem Q_ascending (W n : Nat) : (Q W n).Pairwise (· < ·) := (P_ascending W).filter _

theorem pos_of_mem_P {W p : Nat} (h : p ∈ P W) : 1 ≤ p := by
  rw [P_eq_map_two_pow, List.mem_map] at h
  obtain ⟨k, -, rfl⟩ := h
  exact Nat.one_le_two_pow

/-- Beyond `W` every control position is present (R72). -/
theorem Q_eq_P_of_lt {c : Config} {n : Nat} (h : c.W < n) : Q c.W n = P c.W := by
  rw [Q, List.filter_eq_self]
  intro p hp
  rw [P_eq_map_two_pow, List.mem_map] at hp
  obtain ⟨k, hk, rfl⟩ := hp
  have hle : 2 ^ k ≤ c.W := Nat.lt_size.mp (List.mem_range.mp hk)
  exact decide_eq_true (by omega)

theorem parityCount_le_K (c : Config) (L : Nat) : parityCount c.W L ≤ c.K := by
  rw [← P_length]
  exact List.length_filter_le ..

/-- Ascending numbers above `a` and up to `n` are at most `n - a` many. -/
theorem add_length_le_of_ascending {l : List Nat} {a n : Nat} (hl : l.Pairwise (· < ·))
    (hmem : ∀ x ∈ l, a < x ∧ x ≤ n) (ha : a ≤ n) : a + l.length ≤ n := by
  induction l generalizing a with
  | nil => simpa using ha
  | cons x l ih =>
    obtain ⟨hx, hl⟩ := List.pairwise_cons.mp hl
    obtain ⟨hax, hxn⟩ := hmem x List.mem_cons_self
    have := ih hl (fun y hy => ⟨hx y hy, (hmem y (List.mem_cons_of_mem x hy)).2⟩) hxn
    rw [List.length_cons]
    omega

/-- A block of at least one bit has a position that is no present control position. -/
theorem Q_length_lt (W : Nat) {n : Nat} (h : 1 ≤ n) : (Q W n).length < n := by
  have hmem : ∀ p ∈ Q W n, 0 < p ∧ p ≤ n - 1 := by
    intro p hp
    obtain ⟨hP, hlt⟩ := (mem_Q W n p).mp hp
    exact ⟨pos_of_mem_P hP, by omega⟩
  have := add_length_le_of_ascending (Q_ascending W n) hmem (Nat.zero_le _)
  omega

/-- Deleting at positions of the sequence, the highest first, removes one bit each: the lower ones stay positions of
what is left. -/
theorem deleteAll_length {ps : List Nat} {b : BitSeq} (hps : ps.Pairwise (· < ·))
    (hmem : ∀ p ∈ ps, 1 ≤ p ∧ p ≤ b.length) :
    (ps.reverse.foldl deleteAt b).length = b.length - ps.length := by
  induction ps with
  | nil => rfl
  | cons p ps ih =>
    obtain ⟨hp, htail⟩ := List.pairwise_cons.mp hps
    obtain ⟨hp1, hpb⟩ := hmem p List.mem_cons_self
    have hps' : ∀ q ∈ ps, 1 ≤ q ∧ q ≤ b.length := fun q hq => hmem q (List.mem_cons_of_mem p hq)
    have hroom : p + ps.length ≤ b.length :=
      add_length_le_of_ascending htail (fun q hq => ⟨hp q hq, (hps' q hq).2⟩) hpb
    have hrest := ih htail hps'
    rw [List.reverse_cons, List.foldl_append, List.foldl_cons, List.foldl_nil,
      deleteAt_length _ p hp1 (by omega), hrest, List.length_cons]
    omega

theorem strip_length (W : Nat) (b : BitSeq) : (strip W b).length = b.length - (Q W b.length).length := by
  refine deleteAll_length (Q_ascending W b.length) fun p hp => ?_
  obtain ⟨hP, hlt⟩ := (mem_Q W b.length p).mp hp
  exact ⟨pos_of_mem_P hP, hlt.le⟩

theorem one_le_strip_length (W : Nat) {b : BitSeq} (h : 1 ≤ b.length) : 1 ≤ (strip W b).length := by
  have := Q_length_lt W h
  rw [strip_length]
  omega

/-- A received block that fits the bus strips to at most `W` bits (R91): beyond `W` bits all `K` control positions are
present. -/
theorem strip_length_le_W {c : Config} {b : BitSeq} (h : b.length ≤ c.NMAX) : (strip c.W b).length ≤ c.W := by
  rw [strip_length]
  rcases Nat.lt_or_ge c.W b.length with hlt | hge
  · rw [Q_eq_P_of_lt hlt, P_length]
    rw [Config.NMAX] at h
    omega
  · omega

/-- Insertion at positions of the sequence lengthens it by one bit each. -/
theorem insertAll_length {ps : List Nat} {b : BitSeq} (hmem : ∀ p ∈ ps, p ≤ b.length) :
    (ps.foldl (fun s p => insertAt s p false) b).length = b.length + ps.length := by
  induction ps generalizing b with
  | nil => rfl
  | cons p ps ih =>
    have hp : p ≤ b.length := hmem p List.mem_cons_self
    have hlen : (insertAt b p false).length = b.length + 1 := insertAt_length b p false (by omega)
    have hmem' : ∀ q ∈ ps, q ≤ (insertAt b p false).length := by
      intro q hq
      have := hmem q (List.mem_cons_of_mem p hq)
      omega
    rw [List.foldl_cons, ih hmem', hlen, List.length_cons]
    omega

theorem encInsert_length (W : Nat) (d : BitSeq) : (encInsert W d).length = d.length + parityCount W d.length :=
  insertAll_length fun p hp => ((mem_Q W d.length p).mp hp).2.le

theorem setAll_length (f : Nat → Bool) (ps : List Nat) (b : BitSeq) :
    (ps.foldl (fun s p => setAt s p (f p)) b).length = b.length := by
  induction ps generalizing b with
  | nil => rfl
  | cons p ps ih => rw [List.foldl_cons, ih, setAt_length]

theorem encodeBlock_length (W : Nat) (d : BitSeq) : (encodeBlock W d).length = d.length + parityCount W d.length := by
  rw [encodeBlock, setAll_length, encInsert_length]

theorem encodeBlock_length_le_NMAX {c : Config} {d : BitSeq} (h : d.length ≤ c.W) :
    (encodeBlock c.W d).length ≤ c.NMAX := by
  have := parityCount_le_K c d.length
  rw [encodeBlock_length, Config.NMAX]
  omega

@[simp] theorem operand_length (len bits : Nat) : (operand len bits).length = len := seqOf_length bits len

theorem repair_length (M : List Nat) (b : BitSeq) : (repair M b).length = b.length := by
  unfold repair
  split
  · exact flipAt_length b _
  · rfl

end Sys2Proof.Machine
end

section
/-! The localized position as a number (spec 43_decoder.md R87, R97): the sum of the mismatching control positions is
the mismatch vector, so it fits `RES_POS` and is 0 only without a mismatch. -/

namespace Sys2Proof.Machine

theorem vecNat_concat (b : BitSeq) (v : Bool) : vecNat (b ++ [v]) = vecNat b + 2 ^ b.length * v.toNat := by
  induction b with
  | nil => simp [vecNat]
  | cons x b ih => simp only [List.cons_append, vecNat, ih, List.length_cons, Nat.pow_succ]; ring

/-- A number is the sum of the powers of two at its one bits. -/
theorem vecNat_map_range (f : Nat → Bool) (n : Nat) :
    vecNat ((List.range n).map f) = (((List.range n).filter f).map (2 ^ ·)).sum := by
  induction n with
  | zero => rfl
  | succ n ih =>
    rw [List.range_succ, List.map_append, List.map_singleton, vecNat_concat, ih]
    cases hf : f n <;> simp [hf]

/-- A selection of the control positions, as the selected exponents. -/
theorem filter_P (c : Config) (f : Nat → Bool) :
    (P c.W).filter f = ((List.range c.K).filter fun k => f (2 ^ k)).map (2 ^ ·) := by
  rw [P_eq_map_two_pow, size_W, List.filter_map]
  rfl

/-- The mismatches are a selection of the control positions (R86). -/
theorem filter_mem_mismatches (W : Nat) (b : BitSeq) :
    (P W).filter (fun p => decide (p ∈ mismatches W b)) = mismatches W b := by
  simp only [mismatches, Q, List.filter_filter]
  refine List.filter_congr fun p hp => ?_
  simp only [List.mem_filter, hp, true_and, Bool.decide_eq_true]

theorem pos_of_mem_mismatches {W p : Nat} {b : BitSeq} (h : p ∈ mismatches W b) : 1 ≤ p :=
  pos_of_mem_P ((mem_Q W b.length p).mp (List.mem_filter.mp h).1).1

/-- The mismatch pattern and the sum of the mismatches are the same number (R97). -/
theorem vecNat_mismatchPattern (c : Config) (b : BitSeq) :
    vecNat ((List.range c.K).map fun k => decide (2 ^ k ∈ mismatches c.W b)) = localized (mismatches c.W b) := by
  rw [vecNat_map_range, ← filter_P c fun p => decide (p ∈ mismatches c.W b), filter_mem_mismatches, localized]

theorem mismatchVec_eq_ofNat_localized (c : Config) (b : BitSeq) :
    mismatchVec c.K (mismatches c.W b) = BitVec.ofNat c.K (localized (mismatches c.W b)) := by
  rw [mismatchVec, vecOf, vecNat_mismatchPattern]

theorem localized_lt_two_pow_K (c : Config) (b : BitSeq) : localized (mismatches c.W b) < 2 ^ c.K := by
  have h := vecNat_lt ((List.range c.K).map fun k => decide (2 ^ k ∈ mismatches c.W b))
  rwa [vecNat_mismatchPattern, List.length_map, List.length_range] at h

/-- A sum of control positions is 0 only when there is none: each is at least 1. -/
theorem localized_ne_zero_iff (W : Nat) (b : BitSeq) :
    localized (mismatches W b) ≠ 0 ↔ errorFound (mismatches W b) = true := by
  rw [localized, errorFound, Ne, List.sum_eq_zero_iff_forall_eq_nat]
  cases hM : mismatches W b with
  | nil => simp
  | cons p M =>
    have hp : 1 ≤ p := pos_of_mem_mismatches (W := W) (b := b) (by simp [hM])
    simp [show p ≠ 0 by omega]

/-- `RES_POS` is nonzero exactly after a mismatch: the sum fits the register (R97). -/
theorem ofNat_localized_ne_zero_iff (c : Config) (b : BitSeq) :
    BitVec.ofNat c.K (localized (mismatches c.W b)) ≠ 0 ↔ errorFound (mismatches c.W b) = true := by
  rw [← localized_ne_zero_iff, Ne, ← BitVec.toNat_inj, BitVec.toNat_ofNat,
    Nat.mod_eq_of_lt (localized_lt_two_pow_K c b)]
  rfl

end Sys2Proof.Machine
end

section
/-! What a command does with a legal and with an illegal length, what every command does to STATUS and RSP_VALID, and a
step of the machine as a step of the unit (spec 10_state.md R19, R25, R35). -/

namespace Sys2Proof.Machine

variable {c : Config} (r : Regs c)

theorem Regs.enc_of_legal {len : Nat} (h : 1 ≤ len ∧ len ≤ c.W) (bits : Nat) :
    r.enc len bits = r.putResult 1 (encodeBlock c.W (operand len bits)) :=
  if_pos ((encLenLegal_iff c len).mpr h)

theorem Regs.enc_of_illegal {len : Nat} (h : len = 0 ∨ c.W < len) (bits : Nat) : r.enc len bits = r.lenFault 1 :=
  if_neg fun hl => by rw [encLenLegal_iff] at hl; omega

theorem Regs.dec_of_legal {len : Nat} (h : 1 ≤ len ∧ len ≤ c.NMAX) (bits : Nat) :
    r.dec len bits = r.putResult 2 (strip c.W (operand len bits)) :=
  if_pos ((decLenLegal_iff c len).mpr h)

theorem Regs.dec_of_illegal {len : Nat} (h : len = 0 ∨ c.NMAX < len) (bits : Nat) : r.dec len bits = r.lenFault 2 :=
  if_neg fun hl => by rw [decLenLegal_iff] at hl; omega

theorem Regs.decfix_of_legal {len : Nat} (h : 1 ≤ len ∧ len ≤ c.NMAX) (bits : Nat) :
    r.decfix len bits = r.checkBlock (operand len bits) :=
  if_pos ((decLenLegal_iff c len).mpr h)

theorem Regs.decfix_of_illegal {len : Nat} (h : len = 0 ∨ c.NMAX < len) (bits : Nat) :
    r.decfix len bits = r.lenFault 3 :=
  if_neg fun hl => by rw [decLenLegal_iff] at hl; omega

@[simp] theorem Regs.lenFault_status (op : BitVec 3) : (r.lenFault op).status = r.status ||| 2 := rfl

@[simp] theorem Regs.checkBlock_status (b : BitSeq) : (r.checkBlock b).status = r.status := rfl
@[simp] theorem Regs.checkBlock_rspValid (b : BitSeq) : (r.checkBlock b).rspValid = true := rfl
@[simp] theorem Regs.checkBlock_resErr (b : BitSeq) : (r.checkBlock b).resErr = errorFound (mismatches c.W b) := rfl
@[simp] theorem Regs.checkBlock_resRange (b : BitSeq) :
    (r.checkBlock b).resRange = outOfRange (mismatches c.W b) b.length := rfl
@[simp] theorem Regs.checkBlock_cntOk (b : BitSeq) :
    (r.checkBlock b).cntOk = bump r.cntOk (!errorFound (mismatches c.W b)) := rfl
@[simp] theorem Regs.checkBlock_cntErr (b : BitSeq) :
    (r.checkBlock b).cntErr = bump r.cntErr (errorFound (mismatches c.W b)) := rfl
@[simp] theorem Regs.checkBlock_cntFix (b : BitSeq) :
    (r.checkBlock b).cntFix = bump r.cntFix (flipApplied (mismatches c.W b) b.length) := rfl

/-- Everything a command can do: record the fault of its fault code, whose `STATUS` mask is the code itself, or, without
a fault, do what the rule of its op code says. -/
theorem perform_cases (i : Instr) :
    (r.perform i = r.recordFault (BitVec.ofNat 3 i.opcode) (faultCode c i) (faultCode c i) ∧
      (faultCode c i = 1 ∧ 5 ≤ i.opcode ∧ i.opcode ≤ 7 ∨ faultCode c i = 2 ∧ 1 ≤ i.opcode ∧ i.opcode ≤ 3)) ∨
    (faultCode c i = 0 ∧
      ((i.opcode = 0 ∧ r.perform i = r.idle) ∨
       (i.opcode = 4 ∧ r.perform i = r.clrstat) ∨
       (i.opcode = 1 ∧ ∃ len bits, (1 ≤ len ∧ len ≤ c.W) ∧
          r.perform i = r.putResult 1 (encodeBlock c.W (operand len bits))) ∨
       (i.opcode = 2 ∧ ∃ len bits, (1 ≤ len ∧ len ≤ c.NMAX) ∧
          r.perform i = r.putResult 2 (strip c.W (operand len bits))) ∨
       (i.opcode = 3 ∧ ∃ len bits, (1 ≤ len ∧ len ≤ c.NMAX) ∧ r.perform i = r.checkBlock (operand len bits)))) := by
  cases i with
  | enc len bits =>
    by_cases h : len = 0 ∨ c.W < len
    · have hcode : faultCode c (.enc len bits) = 2 := if_pos h
      rw [hcode]
      exact .inl ⟨r.enc_of_illegal h bits, .inr ⟨rfl, by simp [Instr.opcode]⟩⟩
    · have hlegal : 1 ≤ len ∧ len ≤ c.W := by omega
      exact .inr ⟨if_neg h, .inr (.inr (.inl ⟨rfl, len, bits, hlegal, r.enc_of_legal hlegal bits⟩))⟩
  | dec len bits =>
    by_cases h : len = 0 ∨ c.NMAX < len
    · have hcode : faultCode c (.dec len bits) = 2 := if_pos h
      rw [hcode]
      exact .inl ⟨r.dec_of_illegal h bits, .inr ⟨rfl, by simp [Instr.opcode]⟩⟩
    · have hlegal : 1 ≤ len ∧ len ≤ c.NMAX := by omega
      exact .inr ⟨if_neg h, .inr (.inr (.inr (.inl ⟨rfl, len, bits, hlegal, r.dec_of_legal hlegal bits⟩)))⟩
  | decfix len bits =>
    by_cases h : len = 0 ∨ c.NMAX < len
    · have hcode : faultCode c (.decfix len bits) = 2 := if_pos h
      rw [hcode]
      exact .inl ⟨r.decfix_of_illegal h bits, .inr ⟨rfl, by simp [Instr.opcode]⟩⟩
    · have hlegal : 1 ≤ len ∧ len ≤ c.NMAX := by omega
      exact .inr ⟨if_neg h, .inr (.inr (.inr (.inr ⟨rfl, len, bits, hlegal, r.decfix_of_legal hlegal bits⟩)))⟩
  | nop len bits => exact .inr ⟨rfl, .inl ⟨rfl, rfl⟩⟩
  | clrstat len bits => exact .inr ⟨rfl, .inr (.inl ⟨rfl, rfl⟩)⟩
  | reserved101 len bits | reserved110 len bits | reserved111 len bits =>
    exact .inl ⟨rfl, .inl (by simp [faultCode, Instr.opcode])⟩

/-- A command sets the sticky bits of its fault code and no other (R25). -/
theorem perform_status (i : Instr) : (r.perform i).status = r.status ||| faultCode c i := by
  obtain ⟨hr, -⟩ | ⟨hcode, hdone⟩ := perform_cases r i
  · rw [hr, Regs.recordFault_status]
  · rw [hcode]
    obtain ⟨-, hr⟩ | ⟨-, hr⟩ | ⟨-, _, _, -, hr⟩ | ⟨-, _, _, -, hr⟩ | ⟨-, _, _, -, hr⟩ := hdone <;> simp [hr]

/-- Every command but `NOP` announces its record (R35). -/
theorem perform_rspValid (i : Instr) : (r.perform i).rspValid = true ↔ i.opcode ≠ 0 := by
  obtain ⟨hr, hop⟩ | ⟨-, hdone⟩ := perform_cases r i
  · have hop : i.opcode ≠ 0 := by omega
    simp [hr, hop]
  · obtain ⟨hop, hr⟩ | ⟨hop, hr⟩ | ⟨hop, _, _, -, hr⟩ | ⟨hop, _, _, -, hr⟩ | ⟨hop, _, _, -, hr⟩ := hdone <;>
      simp [hr, hop]

/-- The decoder reads the op field (30_encoding.md R54). -/
@[simp] theorem opcode_decodeFields (op : BitVec 3) (len bits : Nat) :
    (decodeFields op len bits).opcode = op.toNat := by
  have hop : ∀ v : BitVec 3,
      v.toNat = 4 * (v.getLsbD 2).toNat + 2 * (v.getLsbD 1).toNat + (v.getLsbD 0).toNat := by decide
  rw [hop, decodeFields]
  cases op.getLsbD 2 <;> cases op.getLsbD 1 <;> cases op.getLsbD 0 <;> rfl

theorem opcode_instr (x : Cycle c) : x.instr.opcode = x.cmdOp.toNat := opcode_decodeFields _ _ _

theorem perform_of_opcode_zero {i : Instr} (h : i.opcode = 0) : r.perform i = r.idle := by
  cases i with
  | nop len bits => rfl
  | enc | dec | decfix | clrstat | reserved101 | reserved110 | reserved111 => cases h

/-- An edge without reset keeps every STATUS bit that is set (R25). -/
theorem unitStep_keeps_status_bit {x : Cycle c} {k : Nat} (hrst : x.rst = false) (hk : r.status.getLsbD k = true) :
    (unitStep c r x).status.getLsbD k = true := by
  obtain ⟨hrst', -⟩ | ⟨-, -, hr⟩ | ⟨-, -, hr⟩ := unitStep_cases r x
  · rw [hrst] at hrst'
    cases hrst'
  · rw [hr, perform_status, BitVec.getLsbD_or, hk, Bool.true_or]
  · rwa [hr]

@[simp] theorem bump_false {n : Nat} (v : BitVec n) : bump v false = v := rfl

/-- No flip is applied without a mismatch, nor with the position beyond the block (R88). -/
theorem flipApplied_eq_false {M : List Nat} {n : Nat} (h : errorFound M = false ∨ outOfRange M n = true) :
    flipApplied M n = false := by
  obtain h | h := h <;> simp [flipApplied, h]

/-- What `DECFIX` leaves unchanged (R88, R89, R93, 60_exceptions.md R114). -/
theorem decfix_frame (len bits : Nat) :
    let r' := r.perform (.decfix len bits)
    r'.status.getLsbD 0 = r.status.getLsbD 0 ∧
    (1 ≤ len → len ≤ c.NMAX → r'.status = r.status) ∧
    (len = 0 ∨ c.NMAX < len → r.sameCounters r') ∧
    (r'.resErr = false → r'.cntErr = r.cntErr ∧ r'.cntFix = r.cntFix) ∧
    (r'.resErr = true → r'.cntOk = r.cntOk) ∧
    (r'.resRange = true → r'.cntFix = r.cntFix) := by
  simp only [perform_decfix]
  by_cases h : len = 0 ∨ c.NMAX < len
  · rw [r.decfix_of_illegal h]
    exact ⟨by simp, by omega, fun _ => ⟨rfl, rfl, rfl⟩, fun _ => ⟨rfl, rfl⟩, fun _ => rfl, fun _ => rfl⟩
  · rw [r.decfix_of_legal (by omega)]
    refine ⟨rfl, fun _ _ => rfl, fun h' => absurd h' h, fun hErr => ?_, fun hErr => ?_, fun hRange => ?_⟩
    · rw [Regs.checkBlock_resErr] at hErr
      rw [Regs.checkBlock_cntErr, Regs.checkBlock_cntFix, flipApplied_eq_false (.inl hErr), hErr]
      exact ⟨rfl, rfl⟩
    · rw [Regs.checkBlock_resErr] at hErr
      rw [Regs.checkBlock_cntOk, hErr, Bool.not_true, bump_false]
    · rw [Regs.checkBlock_resRange] at hRange
      rw [Regs.checkBlock_cntFix, flipApplied_eq_false (.inr hRange), bump_false]

/-- `exec` is the command on the registers of the machine. -/
theorem exec_eq_perform (i : Instr) (s : State) : exec i s = .next { s with regs := s.regs.perform i } := by
  cases i <;> rfl

theorem step_beyond_schedule (r : Regs Config.w11) : step ⟨r, []⟩ = .next ⟨r.idle, []⟩ := rfl

theorem step_eq_unitStep (r : Regs Config.w11) (x : Cycle Config.w11) (p : List (Cycle Config.w11)) :
    step ⟨r, x :: p⟩ = .next ⟨unitStep Config.w11 r x, p⟩ := by
  simp only [step, clockEdge, unitStep]
  split_ifs
  · rfl
  · exact exec_eq_perform _ _
  · rfl

/-- The registers after a step: those of an idle edge beyond the schedule, else those of the unit's step. -/
theorem regs_of_step {s t : State} (h : step s = .next t) :
    t.regs = s.regs.idle ∨ ∃ x rest, s.port = x :: rest ∧ t.regs = unitStep Config.w11 s.regs x := by
  obtain ⟨r, _ | ⟨x, rest⟩⟩ := s
  · cases h
    exact .inl rfl
  · rw [step_eq_unitStep] at h
    cases h
    exact .inr ⟨x, rest, rfl, rfl⟩

end Sys2Proof.Machine
end

section
/-! Every register operation keeps the invariant of Sys2Proof/Safety.lean, part by part (spec 10_state.md R25 to
R34). -/

namespace Sys2Proof.Machine

variable {c : Config} (r : Regs c)

theorem Regs.reset_inv (c : Config) : (Regs.reset c).Inv := by
  simp [Regs.Inv, Regs.lengthOk, Regs.checkOk, Regs.faultOk, Regs.opOk]

/-- The handshake bit occurs in the invariant only where it must be 0. -/
theorem Regs.idle_inv {r : Regs c} (h : r.Inv) : r.idle.Inv := by
  obtain ⟨hlen, hchk, hflt, hzero, hop⟩ := h
  exact ⟨hlen, hchk, hflt, fun h0 => ⟨(hzero h0).1, rfl⟩, hop⟩

theorem Regs.putResult_resLen_toNat (op : BitVec 3) {out : BitSeq} (h : out.length ≤ c.NMAX) :
    (r.putResult op out).resLen.toNat = out.length := by
  obtain ⟨⟨-, hlen, -⟩, -⟩ := r.putResult_spec op h
  exact hlen

theorem Regs.putResult_lengthOk (op : BitVec 3) {out : BitSeq} (h : out.length ≤ c.NMAX) :
    (r.putResult op out).lengthOk := by
  obtain ⟨⟨-, hlen, -, hbits, -⟩, -⟩ := r.putResult_spec op h
  rw [Regs.lengthOk, hlen]
  exact ⟨h, hbits⟩

theorem Regs.putResult_checkOk {op : BitVec 3} (hop : op ≠ 3) (out : BitSeq) : (r.putResult op out).checkOk := by
  have hop' : op ≠ 3#3 := hop
  simp [Regs.checkOk, hop']

theorem Regs.putResult_faultOk {op : BitVec 3} (hop : op.toNat < 5) (out : BitSeq) : (r.putResult op out).faultOk := by
  simp [Regs.faultOk, hop]

/-- The length of a block coded or decoded by `ENC`, `DEC` or `DECFIX` suits its op code. -/
theorem Regs.putResult_opOk {op : BitVec 3} {out : BitSeq} (hop : op = 1 ∨ op = 2 ∨ op = 3) (h : out.length ≤ c.NMAX)
    (hpos : 1 ≤ out.length) (hdec : op = 2 ∨ op = 3 → out.length ≤ c.W) : (r.putResult op out).opOk := by
  rw [Regs.opOk, r.putResult_resLen_toNat op h, Regs.putResult_resOp]
  refine ⟨fun h0 => ?_, fun h4 => ?_, fun _ => hpos, hdec⟩
  · subst h0; simp at hop
  · subst h4; simp at hop

/-- The whole invariant after `ENC` or `DEC` wrote a result of a suitable length. -/
theorem Regs.putResult_inv {op : BitVec 3} {out : BitSeq} (hop : op = 1 ∨ op = 2) (h : out.length ≤ c.NMAX)
    (hpos : 1 ≤ out.length) (hdec : op = 2 → out.length ≤ c.W) : (r.putResult op out).Inv := by
  have h3 : op ≠ 3 := by rintro rfl; simp at hop
  have h5 : op.toNat < 5 := by obtain rfl | rfl := hop <;> decide
  exact ⟨r.putResult_lengthOk op h, r.putResult_checkOk h3 out, r.putResult_faultOk h5 out,
    r.putResult_opOk (hop.imp_right .inl) h hpos fun h23 => hdec (h23.resolve_right h3)⟩

/-- A recorded fault is legal when its code goes with its op code and with the bit it sets. -/
theorem Regs.recordFault_inv {op : BitVec 3} {code : BitVec 2}
    (h : code = 1 ∧ 5 ≤ op.toNat ∨ code = 2 ∧ 1 ≤ op.toNat ∧ op.toNat ≤ 3) : (r.recordFault op code code).Inv := by
  have hlen : (r.recordFault op code code).lengthOk := by simp [Regs.lengthOk]
  have hne : op ≠ 0 := by rintro rfl; simp at h
  refine ⟨hlen, ?_, ?_, ?_⟩
  · obtain ⟨rfl, -⟩ | ⟨rfl, -⟩ := h <;> simp [Regs.checkOk]
  · obtain ⟨rfl, hop⟩ | ⟨rfl, hop⟩ := h
    · simp [Regs.faultOk, hop]
    · simp [Regs.faultOk, hop]; omega
  · obtain ⟨rfl, -⟩ | ⟨rfl, -⟩ := h <;> exact ⟨fun h0 => absurd h0 hne, fun _ => rfl, by simp, by simp⟩

theorem Regs.clrstat_inv : r.clrstat.Inv := by
  simp [Regs.Inv, Regs.lengthOk, Regs.checkOk, Regs.faultOk, Regs.opOk]

/-- The check fields of a checked block agree with each other (R29 to R33): the pattern and the position are the same
number, which is 0 only without a mismatch. -/
theorem Regs.checkBlock_checkOk (b : BitSeq) : (r.checkBlock b).checkOk := by
  refine ⟨by simp [Regs.checkBlock], fun _ => rfl, (ofNat_localized_ne_zero_iff c b).symm,
    mismatchVec_eq_ofNat_localized c b, fun h => ?_⟩
  exact (Bool.and_eq_true_iff.mp h).1

/-- The other parts of the invariant do not look at the check fields. -/
theorem Regs.putCheck_inv {r : Regs c} {M : List Nat} {n : Nat} (hlen : r.lengthOk) (hflt : r.faultOk) (hop : r.opOk)
    (hchk : (r.putCheck M n).checkOk) : (r.putCheck M n).Inv :=
  ⟨hlen, hchk, hflt, hop⟩

theorem Regs.checkBlock_inv {b : BitSeq} (hpos : 1 ≤ b.length) (hle : b.length ≤ c.NMAX) : (r.checkBlock b).Inv := by
  have hlen : (repair (mismatches c.W b) b).length = b.length := repair_length _ b
  have hW : (strip c.W (repair (mismatches c.W b) b)).length ≤ c.W := strip_length_le_W (by omega)
  have h1 : 1 ≤ (strip c.W (repair (mismatches c.W b) b)).length := one_le_strip_length c.W (by omega)
  have hN : (strip c.W (repair (mismatches c.W b) b)).length ≤ c.NMAX := hW.trans (Nat.le_add_right _ _)
  refine Regs.putCheck_inv ?_ ?_ ?_ (r.checkBlock_checkOk b)
  · exact Regs.putResult_lengthOk _ 3 hN
  · exact Regs.putResult_faultOk _ (by decide) _
  · exact Regs.putResult_opOk _ (.inr (.inr rfl)) hN h1 fun _ => hW

/-- Every command keeps the invariant. -/
theorem perform_inv {r : Regs c} (h : r.Inv) (i : Instr) : (r.perform i).Inv := by
  obtain ⟨hr, hcode⟩ | ⟨-, hdone⟩ := perform_cases r i
  · have hop : (BitVec.ofNat 3 i.opcode).toNat = i.opcode := by
      rw [BitVec.toNat_ofNat]
      omega
    rw [hr]
    obtain ⟨hflt, hge, -⟩ | ⟨hflt, hrange⟩ := hcode
    · exact r.recordFault_inv (.inl ⟨hflt, by rwa [hop]⟩)
    · exact r.recordFault_inv (.inr ⟨hflt, by rwa [hop]⟩)
  · obtain ⟨-, hr⟩ | ⟨-, hr⟩ | ⟨-, len, bits, hlen, hr⟩ | ⟨-, len, bits, hlen, hr⟩ |
      ⟨-, len, bits, hlen, hr⟩ := hdone <;> rw [hr]
    · exact Regs.idle_inv h
    · exact r.clrstat_inv
    · rw [← operand_length len bits] at hlen
      refine r.putResult_inv (.inl rfl) (encodeBlock_length_le_NMAX hlen.2) ?_ fun h2 => absurd h2 (by decide)
      rw [encodeBlock_length]
      exact Nat.le_add_right_of_le hlen.1
    · rw [← operand_length len bits] at hlen
      have hW : (strip c.W (operand len bits)).length ≤ c.W := strip_length_le_W hlen.2
      exact r.putResult_inv (.inr rfl) (hW.trans (Nat.le_add_right _ _)) (one_le_strip_length c.W hlen.1) fun _ => hW
    · rw [← operand_length len bits] at hlen
      exact r.checkBlock_inv hlen.1 hlen.2

theorem unitStep_inv {r : Regs c} (h : r.Inv) (x : Cycle c) : (unitStep c r x).Inv := by
  obtain ⟨-, hr⟩ | ⟨-, -, hr⟩ | ⟨-, -, hr⟩ := unitStep_cases r x <;> rw [hr]
  · exact Regs.reset_inv c
  · exact perform_inv h x.instr
  · exact Regs.idle_inv h

end Sys2Proof.Machine
end

section
/-! The statements about the registers (spec 10_state.md). -/

namespace Sys2Proof

open Sys2Proof.Machine

/-- Settles O11: reset, idling and every command keep the invariant, and a step of the machine is an edge of the
unit. -/
theorem everyStepKeepsTheInvariant : Obligations.EveryStepKeepsTheInvariant := by
  refine ⟨fun c r x h => unitStep_inv h x, fun s t hs hst => ?_⟩
  rw [State.Inv]
  obtain hidle | ⟨x, rest, -, hx⟩ := regs_of_step hst
  · rw [hidle]
    exact Regs.idle_inv hs
  · rw [hx]
    exact unitStep_inv hs x

/-- Settles O9: the edge performs its command, and every command but `NOP`, whose op code is 000, sets RSP_VALID. -/
theorem rspValidMarksNewRecord : Obligations.RspValidMarksNewRecord := by
  intro c r x
  have hop : x.instr.opcode ≠ 0 ↔ x.cmdOp ≠ 0 := by
    rw [opcode_instr, Ne, Ne, ← BitVec.toNat_inj]
    rfl
  obtain ⟨hrst, hr⟩ | ⟨hrst, hvalid, hr⟩ | ⟨hrst, hvalid, hr⟩ := unitStep_cases r x <;> rw [hr]
  · exact ⟨by simp [hrst], by simp [hrst]⟩
  · refine ⟨by simp [perform_rspValid, hop, hrst, hvalid], fun _ hnop => ?_⟩
    have hzero : x.instr.opcode = 0 := by
      by_contra hne
      exact hnop ⟨hvalid, hop.mp hne⟩
    rw [perform_of_opcode_zero r hzero]
    obtain ⟨hrec, hcnt, hstatus, -⟩ := r.idle_spec
    exact ⟨hrec, hcnt, hstatus⟩
  · refine ⟨by simp [hvalid], fun _ _ => ?_⟩
    obtain ⟨hrec, hcnt, hstatus, -⟩ := r.idle_spec
    exact ⟨hrec, hcnt, hstatus⟩

/-- Settles O12: a command sets the bits of its fault code in STATUS and clears none, and an idle edge keeps them. -/
theorem statusBitsAreSticky : Obligations.StatusBitsAreSticky := by
  refine ⟨fun c r x k hrst hk => unitStep_keeps_status_bit r hrst hk, fun s t k hport hst hk => ?_⟩
  obtain hidle | ⟨x, rest, hx, hr⟩ := regs_of_step hst
  · rwa [hidle]
  · rw [hr]
    exact unitStep_keeps_status_bit s.regs (hport x rest hx) hk

/-- Settles O6: each register's reset value is 0 by definition. -/
theorem everyRegisterIsZeroAfterReset : Obligations.EveryRegisterIsZeroAfterReset := by
  intro c
  simp

/-- Settles O8: with an edge scheduled the step is the unit's step on it, and beyond the schedule an idle edge. -/
theorem everyStepIsOneEdgeOfTheUnit : Obligations.EveryStepIsOneEdgeOfTheUnit :=
  ⟨step_eq_unitStep, step_beyond_schedule⟩

/-- Settles O10: all registers are 0 after reset, and the machine's reset state holds those registers. -/
theorem invariantHoldsAtReset : Obligations.InvariantHoldsAtReset :=
  ⟨Regs.reset_inv, Regs.reset_inv Config.w11⟩

/-- Settles O21: `DECFIX` is `checkBlock` or a length fault, and on the machine it is the command on its registers. -/
theorem frameOfDecfix : Obligations.FrameOfDecfix := by
  refine ⟨fun s t len bits h => ?_, fun c r len bits => decfix_frame r len bits⟩
  rw [exec_eq_perform] at h
  cases h
  exact ⟨rfl, decfix_frame s.regs len bits⟩

end Sys2Proof
end

section
/-! Which operand bits a command reads (spec 30_encoding.md R55, R56; 20_memory.md R44), and what a repeated command
leaves (20_memory.md R46). -/

namespace Sys2Proof.Machine

variable {c : Config} (r : Regs c)

/-- The operand sequence reads the bits below `len` alone (R56). -/
theorem operand_congr {len bits bits' : Nat} (h : bits % 2 ^ len = bits' % 2 ^ len) :
    operand len bits = operand len bits' := by
  refine List.map_congr_left fun i hi => ?_
  have hlt : i < len := List.mem_range.mp hi
  have hbit : (bits % 2 ^ len).testBit i = (bits' % 2 ^ len).testBit i := by rw [h]
  simpa [Nat.testBit_mod_two_pow, hlt] using hbit

theorem Regs.enc_congr {len bits bits' : Nat} (h : operand len bits = operand len bits') :
    r.enc len bits = r.enc len bits' := by
  rw [Regs.enc, Regs.enc, h]

theorem Regs.dec_congr {len bits bits' : Nat} (h : operand len bits = operand len bits') :
    r.dec len bits = r.dec len bits' := by
  rw [Regs.dec, Regs.dec, h]

theorem Regs.decfix_congr {len bits bits' : Nat} (h : operand len bits = operand len bits') :
    r.decfix len bits = r.decfix len bits' := by
  rw [Regs.decfix, Regs.decfix, h]

/-- Two commands that leave the same registers are one command to the machine. -/
theorem exec_congr {i j : Instr} (h : ∀ r : Regs Config.w11, r.perform i = r.perform j) (s : State) :
    exec i s = exec j s := by
  rw [exec_eq_perform, exec_eq_perform, h]

/-- The result record is written whole, so a later record replaces an earlier one. -/
@[simp] theorem Regs.putResult_putResult (op op' : BitVec 3) (out out' : BitSeq) :
    (r.putResult op out).putResult op' out' = r.putResult op' out' := rfl

/-- A sticky bit that is set stays set, so recording a fault again changes nothing. -/
@[simp] theorem Regs.recordFault_recordFault (op : BitVec 3) (code mask : BitVec 2) :
    (r.recordFault op code mask).recordFault op code mask = r.recordFault op code mask := by
  have hstatus : r.status ||| mask ||| mask = r.status ||| mask := by rw [BitVec.or_assoc, BitVec.or_self]
  simp only [Regs.recordFault, Regs.putResult, hstatus]

@[simp] theorem Regs.lenFault_lenFault (op : BitVec 3) : (r.lenFault op).lenFault op = r.lenFault op :=
  r.recordFault_recordFault op _ _

/-- A repeated `ENC` writes the same record, or records the same fault (R46). -/
theorem Regs.enc_enc (len bits : Nat) : (r.enc len bits).enc len bits = r.enc len bits := by
  by_cases h : len = 0 ∨ c.W < len
  · simp only [Regs.enc_of_illegal _ h, Regs.lenFault_lenFault]
  · have hlegal : 1 ≤ len ∧ len ≤ c.W := by omega
    simp only [Regs.enc_of_legal _ hlegal, Regs.putResult_putResult]

/-- A repeated `DEC` writes the same record, or records the same fault (R46). -/
theorem Regs.dec_dec (len bits : Nat) : (r.dec len bits).dec len bits = r.dec len bits := by
  by_cases h : len = 0 ∨ c.NMAX < len
  · simp only [Regs.dec_of_illegal _ h, Regs.lenFault_lenFault]
  · have hlegal : 1 ≤ len ∧ len ≤ c.NMAX := by omega
    simp only [Regs.dec_of_legal _ hlegal, Regs.putResult_putResult]

/-- A counter of at least one bit differs after a counted event, also when it wraps (R89). -/
theorem bump_true_ne {n : Nat} (hn : 1 ≤ n) (v : BitVec n) : bump v true ≠ v := by
  intro h
  have hone : (1 : BitVec n) = 0 := left_eq_add.mp (Eq.symm h)
  have hmod : 1 % 2 ^ n = 0 := by simpa using congrArg BitVec.toNat hone
  rw [Nat.mod_eq_of_lt (Nat.one_lt_two_pow (by omega))] at hmod
  exact absurd hmod one_ne_zero

/-- A checked block changes the registers: it counts as errored or as correct. -/
theorem Regs.checkBlock_ne (hc : 1 ≤ c.cntW) (b : BitSeq) : r.checkBlock b ≠ r := by
  intro h
  cases hErr : errorFound (mismatches c.W b) with
  | false =>
    have hOk : bump r.cntOk true = r.cntOk := by simpa [hErr] using congrArg Regs.cntOk h
    exact bump_true_ne hc _ hOk
  | true =>
    have hBad : bump r.cntErr true = r.cntErr := by simpa [hErr] using congrArg Regs.cntErr h
    exact bump_true_ne hc _ hBad

/-- A legal `DECFIX` never leaves the registers as they are, repeated or not. -/
theorem Regs.decfix_ne {len : Nat} (h : 1 ≤ len ∧ len ≤ c.NMAX) (hc : 1 ≤ c.cntW) (bits : Nat) :
    r.decfix len bits ≠ r := by
  rw [r.decfix_of_legal h]
  exact r.checkBlock_ne hc _

/-- A command that repeated leaves its registers as they are leaves the machine's state as it is. -/
theorem exec_repeat {i : Instr} {s t : State} (hr : (s.regs.perform i).perform i = s.regs.perform i)
    (h : exec i s = .next t) : exec i t = .next t := by
  rw [exec_eq_perform] at h
  cases h
  rw [exec_eq_perform, hr]

theorem regs_of_exec {i : Instr} {s t : State} (h : exec i s = .next t) : t.regs = s.regs.perform i := by
  rw [exec_eq_perform] at h
  cases h
  rfl

end Sys2Proof.Machine
end

section
/-! The statements about operands and repeated commands (spec 20_memory.md). -/

namespace Sys2Proof

open Sys2Proof.Machine

/-- Settles O23: `ENC`, `DEC` and `DECFIX` read `bits` through the operand sequence, and the other commands have no
operand on the right-hand side of their rule. -/
theorem operandBitsAboveLenAreIgnored : Obligations.OperandBitsAboveLenAreIgnored := by
  intro len len' bits bits' i j hij
  have hperform : ∀ (c : Config) (r : Regs c), r.perform i = r.perform j := by
    intro c r
    obtain ⟨hbits, hop⟩ | hop := hij
    · have hsame : operand len bits = operand len bits' := operand_congr hbits
      obtain ⟨rfl, rfl⟩ | ⟨rfl, rfl⟩ | ⟨rfl, rfl⟩ := hop
      · exact r.enc_congr hsame
      · exact r.dec_congr hsame
      · exact r.decfix_congr hsame
    · obtain ⟨rfl, rfl⟩ | ⟨rfl, rfl⟩ | ⟨rfl, rfl⟩ | ⟨rfl, rfl⟩ | ⟨rfl, rfl⟩ := hop <;> rfl
  exact ⟨hperform, exec_congr (hperform Config.w11)⟩

/-- Settles O24: `ENC` and `DEC` rewrite the same record or record the same fault, and a legal `DECFIX` counts its block
each time. -/
theorem repeatingEncOrDecIsIdempotent : Obligations.RepeatingEncOrDecIsIdempotent := by
  refine ⟨fun c r len bits => ⟨r.enc_enc len bits, r.dec_dec len bits, fun h1 hN hc => ?_⟩,
    fun s t u len bits => ⟨exec_repeat (s.regs.enc_enc len bits), exec_repeat (s.regs.dec_dec len bits),
      fun h1 hN _ hu hut => ?_⟩⟩
  · exact Regs.decfix_ne _ ⟨h1, hN⟩ hc bits
  · have hregs : u.regs = t.regs.decfix len bits := regs_of_exec hu
    rw [hut] at hregs
    exact t.regs.decfix_ne ⟨h1, hN⟩ (by decide) bits hregs.symm

end Sys2Proof
end

section
/-! The command word as its three fields (spec 30_encoding.md R53, R54): what the encoder puts in each field, what the
decoder reads from each, and that a presented word or command is the command the unit performs. -/

namespace Sys2Proof

open Sys2Proof.Machine

theorem Instr.opcode_lt (i : Instr) : i.opcode < 8 := by
  cases i <;> simp [Instr.opcode]

theorem Instr.wf_iff (c : Config) (i : Instr) : i.wf c = true ↔ i.len < 2 ^ c.LW ∧ i.bits < 2 ^ c.NMAX := by
  simp [Instr.wf, lenFits, bitsFit]

@[simp] theorem len_decodeFields (op : BitVec 3) (len bits : Nat) : (decodeFields op len bits).len = len := by
  unfold decodeFields
  split <;> rfl

@[simp] theorem bits_decodeFields (op : BitVec 3) (len bits : Nat) : (decodeFields op len bits).bits = bits := by
  unfold decodeFields
  split <;> rfl

/-- A command is determined by its three fields: the decoder rebuilds it from them. -/
@[simp] theorem decodeFields_fields (i : Instr) : decodeFields (BitVec.ofNat 3 i.opcode) i.len i.bits = i := by
  cases i <;> simp [decodeFields, Instr.opcode, Instr.len, Instr.bits]

theorem wordLen_lt (c : Config) (w : Nat) : wordLen c w < 2 ^ c.LW := Nat.mod_lt _ (Nat.two_pow_pos _)

theorem wordBits_lt (c : Config) (w : Nat) : wordBits c w < 2 ^ c.NMAX := Nat.mod_lt _ (Nat.two_pow_pos _)

theorem two_pow_CW (c : Config) : 2 ^ c.CW = 2 ^ c.NMAX * 2 ^ (c.LW + 3) := by
  rw [← Nat.pow_add, Config.CW]
  congr 1
  omega

theorem shiftRight_lt_iff_lt_two_pow_CW {c : Config} {w : Nat} : w >>> (c.LW + 3) < 2 ^ c.NMAX ↔ w < 2 ^ c.CW := by
  rw [two_pow_CW, Nat.shiftRight_eq_div_pow, Nat.div_lt_iff_lt_mul (Nat.two_pow_pos _)]

/-- A word below bit `CW` is the sum of its op, length and bits fields (R53). -/
theorem word_eq_sum_of_fields {c : Config} {w : Nat} (h : w < 2 ^ c.CW) :
    (wordOp w).toNat + (wordLen c w <<< 3) + (wordBits c w <<< (c.LW + 3)) = w := by
  have hbits : wordBits c w = w >>> 3 / 2 ^ c.LW := by
    rw [wordBits, Nat.mod_eq_of_lt (shiftRight_lt_iff_lt_two_pow_CW.mpr h), ← Nat.shiftRight_eq_div_pow,
      ← Nat.shiftRight_add, Nat.add_comm]
  have hhigh : wordLen c w + 2 ^ c.LW * wordBits c w = w / 8 := by
    rw [hbits, wordLen, Nat.mod_add_div, Nat.shiftRight_eq_div_pow]
  have hlow : (wordOp w).toNat = w % 8 := BitVec.toNat_ofNat w 3
  calc (wordOp w).toNat + (wordLen c w <<< 3) + (wordBits c w <<< (c.LW + 3))
      = w % 8 + 8 * (wordLen c w + 2 ^ c.LW * wordBits c w) := by
        rw [hlow, Nat.shiftLeft_eq, Nat.shiftLeft_eq, Nat.pow_add]; ring
    _ = w := by rw [hhigh, Nat.mod_add_div]

theorem wordOp_encode (c : Config) (i : Instr) : wordOp (encode c i) = BitVec.ofNat 3 i.opcode := by
  apply BitVec.eq_of_toNat_eq
  rw [wordOp, BitVec.toNat_ofNat, BitVec.toNat_ofNat, Nat.mod_eq_of_lt i.opcode_lt]
  exact Laws.EncodesOp.low_bits c i i.opcode_lt

/-- Above the op field an encoded word holds the length and, from bit `LW` of that on, the bits. -/
theorem encode_shiftRight_three (c : Config) (i : Instr) : encode c i >>> 3 = i.len + 2 ^ c.LW * i.bits := by
  have hsum : encode c i = i.opcode + 8 * (i.len + 2 ^ c.LW * i.bits) := by
    rw [encode, Nat.shiftLeft_eq, Nat.shiftLeft_eq, Nat.pow_add]; ring
  have hop := i.opcode_lt
  rw [hsum, Nat.shiftRight_eq_div_pow]
  omega

theorem encode_shiftRight_bits {c : Config} {i : Instr} (h : i.len < 2 ^ c.LW) :
    encode c i >>> (c.LW + 3) = i.bits := by
  rw [Nat.add_comm, Nat.shiftRight_add, encode_shiftRight_three, Nat.shiftRight_eq_div_pow,
    Nat.add_mul_div_left _ _ (Nat.two_pow_pos _), Nat.div_eq_of_lt h, Nat.zero_add]

theorem wordLen_encode {c : Config} {i : Instr} (h : i.len < 2 ^ c.LW) : wordLen c (encode c i) = i.len := by
  rw [wordLen, encode_shiftRight_three, Nat.add_mul_mod_self_left, Nat.mod_eq_of_lt h]

theorem wordBits_encode {c : Config} {i : Instr} (h : i.wf c = true) : wordBits c (encode c i) = i.bits := by
  obtain ⟨hlen, hbits⟩ := (i.wf_iff c).mp h
  rw [wordBits, encode_shiftRight_bits hlen, Nat.mod_eq_of_lt hbits]

/-- The word of a command that fits the port has no bit at or above `CW`. -/
theorem encode_lt {c : Config} {i : Instr} (h : i.wf c = true) : encode c i < 2 ^ c.CW := by
  obtain ⟨hlen, hbits⟩ := (i.wf_iff c).mp h
  rw [← shiftRight_lt_iff_lt_two_pow_CW, encode_shiftRight_bits hlen]
  exact hbits

theorem decodeWord_of_lt {c : Config} {w : Nat} (h : w < 2 ^ c.CW) :
    decodeWord c w = .ok (decodeFields (wordOp w) (wordLen c w) (wordBits c w)) :=
  if_pos h

theorem decodeWord_eq_ok {c : Config} {w : Nat} {i : Instr} (h : decodeWord c w = .ok i) :
    w < 2 ^ c.CW ∧ decodeFields (wordOp w) (wordLen c w) (wordBits c w) = i := by
  by_cases hw : w < 2 ^ c.CW
  · rw [decodeWord_of_lt hw] at h
    exact ⟨hw, Except.ok.inj h⟩
  · rw [decodeWord, if_neg hw] at h
    cases h

/-- Decoding undoes encoding for every command that fits the port (R53, R54). -/
theorem decodeWord_encode {c : Config} {i : Instr} (h : i.wf c = true) : decodeWord c (encode c i) = .ok i := by
  have hlen : i.len < 2 ^ c.LW := ((i.wf_iff c).mp h).1
  rw [decodeWord_of_lt (encode_lt h), wordOp_encode, wordLen_encode hlen, wordBits_encode h, decodeFields_fields]

/-- What a word decodes to fits the port: each field is read modulo its width. -/
theorem wf_decodeFields_word (c : Config) (w : Nat) :
    (decodeFields (wordOp w) (wordLen c w) (wordBits c w)).wf c = true := by
  rw [Instr.wf_iff, len_decodeFields, bits_decodeFields]
  exact ⟨wordLen_lt c w, wordBits_lt c w⟩

/-- Encoding undoes decoding (R58, R59). -/
theorem encode_decodeFields_word {c : Config} {w : Nat} (h : w < 2 ^ c.CW) :
    encode c (decodeFields (wordOp w) (wordLen c w) (wordBits c w)) = w := by
  rw [encode, opcode_decodeFields, len_decodeFields, bits_decodeFields]
  exact word_eq_sum_of_fields h

/-- The port carries a command that fits it without loss. -/
theorem instr_ofInstr {c : Config} {i : Instr} (h : i.wf c = true) : (Cycle.ofInstr c i).instr = i := by
  obtain ⟨hlen, hbits⟩ := (i.wf_iff c).mp h
  simp [Cycle.instr, Cycle.ofInstr, Nat.mod_eq_of_lt hlen, Nat.mod_eq_of_lt hbits]

/-- The command on a port that holds a packed word is the one the word decodes to. -/
theorem instr_ofWord {c : Config} {w : Nat} {i : Instr} (h : decodeWord c w = .ok i) :
    (Cycle.ofWord c w).instr = i := by
  obtain ⟨-, hi⟩ := decodeWord_eq_ok h
  simpa [Cycle.instr, Cycle.ofWord, Nat.mod_eq_of_lt (wordLen_lt c w), Nat.mod_eq_of_lt (wordBits_lt c w)] using hi

theorem unitStep_of_accepts {c : Config} (r : Regs c) {x : Cycle c} (hvalid : x.cmdValid = true)
    (hrst : x.rst = false) : unitStep c r x = r.perform x.instr := by
  simp [unitStep, Cycle.accepts, hvalid, hrst]

theorem step_of_accepts (r : Regs Config.w11) (p : List (Cycle Config.w11)) {x : Cycle Config.w11}
    (hvalid : x.cmdValid = true) (hrst : x.rst = false) : step ⟨r, x :: p⟩ = exec x.instr ⟨r, p⟩ := by
  rw [step_eq_unitStep, unitStep_of_accepts r hvalid hrst, exec_eq_perform]

/-- A word of at most `nbits` bits takes the place of the next scheduled edge (log entry 4). -/
theorem withFetchWord_of_lt (r : Regs Config.w11) (p : List (Cycle Config.w11)) {nbits w : Nat} (h : w < 2 ^ nbits) :
    (⟨r, p⟩ : State).withFetchWord nbits w = ⟨r, Cycle.ofWord Config.w11 w :: p.tail⟩ := by
  rw [State.withFetchWord, presentWord, Nat.mod_eq_of_lt h]

end Sys2Proof
end

section
/-! The string operands of the assembler forms (spec 30_encoding.md R62; 20_memory.md R43). -/

namespace Sys2Proof.Machine

/-- The sequence a text of `0` and `1` characters stands for (R43). -/
def binarySeq (text : List Char) : BitSeq := text.map fun ch => decide (ch = '1')

@[simp] theorem binarySeq_length (text : List Char) : (binarySeq text).length = text.length := List.length_map _

/-- All that reading a text can do: a binary text is its sequence, and any other is refused as not binary (R62). -/
theorem textBits_eq (text : List Char) :
    textBits text = if ∀ ch ∈ text, ch = '0' ∨ ch = '1' then .ok (binarySeq text) else .error .notBinary := by
  induction text with
  | nil => simp [textBits, binarySeq]
  | cons ch rest ih =>
    rw [textBits, ih]
    by_cases hrest : ∀ x ∈ rest, x = '0' ∨ x = '1'
    · have hhead : (∀ x ∈ ch :: rest, x = '0' ∨ x = '1') ↔ ch = '0' ∨ ch = '1' := by
        rw [List.forall_mem_cons, and_iff_left hrest]
      simp only [if_pos hrest, hhead]
      by_cases h0 : ch = '0'
      · simp [h0, binarySeq]
      · by_cases h1 : ch = '1' <;> simp [h0, h1, binarySeq]
    · have hcons : ¬∀ x ∈ ch :: rest, x = '0' ∨ x = '1' := fun h => hrest (List.forall_mem_cons.mp h).2
      rw [if_neg hrest, if_neg hcons]

/-- Character `t` of a binary text is bit `t - 1` of the operand. -/
theorem vecNat_binarySeq_testBit (text : List Char) (i : Nat) :
    (vecNat (binarySeq text)).testBit i = decide (text.getD i '0' = '1') := by
  rw [vecNat_testBit, binarySeq]
  exact List.getD_map text '0' _

variable {c : Config} {text : List Char} (mk : Nat → Nat → Instr)

theorem assembleText_of_other_character (h : ∃ ch ∈ text, ch ≠ '0' ∧ ch ≠ '1') :
    assembleText c mk text = .error .notBinary := by
  have hbad : ¬∀ ch ∈ text, ch = '0' ∨ ch = '1' := by
    obtain ⟨ch, hmem, h0, h1⟩ := h
    exact fun hall => (hall ch hmem).elim h0 h1
  rw [assembleText, textBits_eq, if_neg hbad]

theorem assembleText_of_binary (h : ∀ ch ∈ text, ch = '0' ∨ ch = '1') :
    assembleText c mk text =
      if text.length ≤ c.NMAX then .ok [mk text.length (vecNat (binarySeq text))] else .error .stringTooLong := by
  rw [assembleText, textBits_eq, if_pos h]
  simp only [ofBits, binarySeq_length]

end Sys2Proof.Machine
end

section
/-! The statements about commands, their words and the assembler's strings (spec 30_encoding.md). -/

namespace Sys2Proof

open Sys2Proof.Machine

/-- Settles O2: the three fields of a fitting command do not overlap, so each is read back as it was put in. -/
theorem decodeOfEncode : Obligations.DecodeOfEncode := fun _ _ h => ⟨encode_lt h, decodeWord_encode h⟩

/-- Settles O3: the command is the one the word decodes to. Another fitting command with that word decodes from it as
well, so it is the same. -/
theorem everyWordSpellsOneCommand : Obligations.EveryWordSpellsOneCommand := by
  intro c w hw
  refine ⟨decodeFields (wordOp w) (wordLen c w) (wordBits c w), wf_decodeFields_word c w, decodeWord_of_lt hw,
    encode_decodeFields_word hw, fun j hj hjw => ?_⟩
  have hdecode : decodeWord c w = .ok j := by
    rw [← hjw]
    exact decodeWord_encode hj
  exact (decodeWord_eq_ok hdecode).2.symm

/-- Settles O51: the three commands read their string alike, and bit `t - 1` of the operand is character `t`. -/
theorem assemblerRefusesBadStrings : Obligations.AssemblerRefusesBadStrings := by
  intro c text
  refine ⟨fun hbad => ?_, fun hbin hlong => ?_, fun hbin hshort => ?_⟩
  · have hrefused (mk : Nat → Nat → Instr) : assembleText c mk text = .error .notBinary :=
      assembleText_of_other_character mk hbad
    exact ⟨hrefused .enc, hrefused .dec, hrefused .decfix⟩
  · have hrefused (mk : Nat → Nat → Instr) : assembleText c mk text = .error .stringTooLong := by
      rw [assembleText_of_binary mk hbin, if_neg (by omega)]
    exact ⟨hrefused .enc, hrefused .dec, hrefused .decfix⟩
  · have hcommand (mk : Nat → Nat → Instr) :
        assembleText c mk text = .ok [mk text.length (vecNat (binarySeq text))] := by
      rw [assembleText_of_binary mk hbin, if_pos hshort]
    exact ⟨vecNat (binarySeq text), fun t _ => vecNat_binarySeq_testBit text (t - 1), hcommand .enc, hcommand .dec,
      hcommand .decfix⟩

/-- Settles O1: the decoder evaluated on each word. -/
theorem decodeSpelledWords : Obligations.DecodeSpelledWords := by
  unfold Obligations.DecodeSpelledWords
  decide

/-- Settles O4: an accepting edge performs the command on its port, which for a presented command is that command and
for a packed word the decoded one. -/
theorem stepRunsTheDecodedCommand : Obligations.StepRunsTheDecodedCommand := by
  refine ⟨fun r p => ⟨fun x hvalid hrst => step_of_accepts r p hvalid hrst, fun i hi => ?_, fun w i hi => ?_,
    fun nbits w i hw hi => ?_⟩, fun c r => ⟨fun x hvalid hrst => unitStep_of_accepts r hvalid hrst,
    fun i hi => ?_, fun w i hi => ?_⟩⟩
  · rw [step_of_accepts r p rfl rfl, instr_ofInstr hi]
  · rw [step_of_accepts r p rfl rfl, instr_ofWord hi]
  · rw [withFetchWord_of_lt r p hw, step_of_accepts r p.tail rfl rfl, instr_ofWord hi]
  · rw [unitStep_of_accepts r rfl rfl, instr_ofInstr hi]
  · rw [unitStep_of_accepts r rfl rfl, instr_ofWord hi]

end Sys2Proof
end

section
/-! Exponents of the control positions, of the present ones and of the decomposition of a position (spec 41_bitblock.md
R67 to R72), and what each class of a position says of its decomposition (R73). -/

namespace Sys2Proof.Machine

theorem mem_P (W x : Nat) : x ∈ P W ↔ (∃ k, x = 2 ^ k) ∧ x ≤ W := by
  simp only [P_eq_map_two_pow, List.mem_map, List.mem_range, Nat.lt_size]
  constructor
  · rintro ⟨k, hk, rfl⟩
    exact ⟨⟨k, rfl⟩, hk⟩
  · rintro ⟨⟨k, rfl⟩, hk⟩
    exact ⟨k, hk, rfl⟩

theorem two_pow_mem_P (c : Config) (k : Nat) : 2 ^ k ∈ P c.W ↔ k < c.K := by
  rw [mem_P, and_iff_right ⟨k, rfl⟩, ← size_W, Nat.lt_size]

/-- Up to `W` the present control positions are the powers of two with exponent below `ceil(log2 L)` (R71, R72). -/
theorem Q_eq_map_two_pow {W L : Nat} (h : L ≤ W) : Q W L = (List.range (Nat.clog 2 L)).map (2 ^ ·) := by
  have hasc : ((List.range (Nat.clog 2 L)).map (2 ^ ·)).Pairwise (· < ·) :=
    List.pairwise_map.mpr (List.pairwise_lt_range.imp fun h => Nat.pow_lt_pow_right (by omega) h)
  refine (Q_ascending W L).eq_of_mem_iff hasc fun p => ?_
  simp only [mem_Q, mem_P, List.mem_map, List.mem_range, Nat.lt_clog_iff_pow_lt Nat.one_lt_two]
  constructor
  · rintro ⟨⟨⟨k, rfl⟩, -⟩, hk⟩
    exact ⟨k, hk, rfl⟩
  · rintro ⟨k, hk, rfl⟩
    exact ⟨⟨⟨k, rfl⟩, by omega⟩, hk⟩

/-- The exponents of `pexp(x)` are the bit indices of `x`: bit `floor(log2 x)` is the highest (R69). -/
theorem pexp_eq_map_bitIndices (x : Nat) : pexp x = x.bitIndices.map (2 ^ ·) := by
  rw [pexp]
  congr 1
  refine (List.pairwise_lt_range.filter _).eq_of_mem_iff Nat.bitIndices_sorted.pairwise fun k => ?_
  rw [List.mem_filter, List.mem_range, Nat.mem_bitIndices, and_iff_right_iff_imp]
  intro hk
  have hpow : 2 ^ k < 2 ^ (Nat.log2 x + 1) := lt_of_le_of_lt (Nat.ge_two_pow_of_testBit hk) Nat.lt_log2_self
  exact (Nat.pow_lt_pow_iff_right Nat.one_lt_two).mp hpow

@[simp] theorem pexp_sum (x : Nat) : (pexp x).sum = x := by
  rw [pexp_eq_map_bitIndices, Nat.sum_map_two_pow_bitIndices]

theorem pexp_nodup (x : Nat) : (pexp x).Nodup := by
  rw [pexp_eq_map_bitIndices]
  exact Nat.bitIndices_nodup.map (Nat.pow_right_injective le_rfl)

theorem pexp_ne_nil {x : Nat} (h : 1 ≤ x) : pexp x ≠ [] := by
  intro hnil
  have hsum : (pexp x).sum = 0 := by rw [hnil, List.sum_nil]
  rw [pexp_sum] at hsum
  omega

theorem mem_pexp (x y : Nat) : y ∈ pexp x ↔ ∃ k, y = 2 ^ k ∧ x.testBit k = true := by
  simp only [pexp_eq_map_bitIndices, List.mem_map, Nat.mem_bitIndices]
  constructor
  · rintro ⟨k, hk, rfl⟩
    exact ⟨k, rfl, hk⟩
  · rintro ⟨k, rfl, hk⟩
    exact ⟨k, hk, rfl⟩

theorem two_pow_mem_pexp (x k : Nat) : 2 ^ k ∈ pexp x ↔ x.testBit k = true := by
  rw [pexp_eq_map_bitIndices, List.mem_map_of_injective (Nat.pow_right_injective le_rfl), Nat.mem_bitIndices]

theorem and_two_pow_ne_zero (x k : Nat) : x &&& 2 ^ k ≠ 0 ↔ x.testBit k = true := by
  rw [Nat.and_two_pow]
  cases x.testBit k <;> simp

/-- The class of a position, decided by which elements of its decomposition lie in `P` (R73). -/
theorem posClass_eq_ite (W j : Nat) : posClass W j =
    if j ∈ P W then .control
    else if ∀ p ∈ pexp j, p ∈ P W then .fullyCovered
    else if ∃ p ∈ pexp j, p ∈ P W then .partlyCovered
    else .uncovered := by
  simp [posClass]

theorem posClass_eq_control_iff (W j : Nat) : posClass W j = .control ↔ j ∈ P W := by
  rw [posClass_eq_ite]
  split_ifs with hctl <;> simp [hctl]

theorem posClass_eq_fullyCovered_iff (W j : Nat) :
    posClass W j = .fullyCovered ↔ j ∉ P W ∧ ∀ p ∈ pexp j, p ∈ P W := by
  rw [posClass_eq_ite]
  split_ifs with hctl hall hsome
  · exact iff_of_false nofun fun ⟨hnot, _⟩ => hnot hctl
  · exact iff_of_true rfl ⟨hctl, hall⟩
  · exact iff_of_false nofun fun ⟨_, h⟩ => hall h
  · exact iff_of_false nofun fun ⟨_, h⟩ => hall h

theorem posClass_eq_partlyCovered_iff (W j : Nat) : posClass W j = .partlyCovered ↔
    j ∉ P W ∧ (∃ p ∈ pexp j, p ∈ P W) ∧ ∃ p ∈ pexp j, p ∉ P W := by
  rw [posClass_eq_ite]
  split_ifs with hctl hall hsome
  · exact iff_of_false nofun fun ⟨hnot, _⟩ => hnot hctl
  · exact iff_of_false nofun fun ⟨_, _, p, hp, hpP⟩ => hpP (hall p hp)
  · exact iff_of_true rfl ⟨hctl, hsome, by simpa using hall⟩
  · exact iff_of_false nofun fun ⟨_, h, _⟩ => hsome h

/-- The decomposition of a position is not empty, so it cannot lie both in `P` and outside it. -/
theorem posClass_eq_uncovered_iff (W : Nat) {j : Nat} (hj : 1 ≤ j) :
    posClass W j = .uncovered ↔ j ∉ P W ∧ ∀ p ∈ pexp j, p ∉ P W := by
  rw [posClass_eq_ite]
  split_ifs with hctl hall hsome
  · exact iff_of_false nofun fun ⟨hnot, _⟩ => hnot hctl
  · obtain ⟨p, hp⟩ := List.exists_mem_of_ne_nil _ (pexp_ne_nil hj)
    exact iff_of_false nofun fun ⟨_, hnone⟩ => hnone p hp (hall p hp)
  · obtain ⟨p, hp, hpP⟩ := hsome
    exact iff_of_false nofun fun ⟨_, hnone⟩ => hnone p hp hpP
  · exact iff_of_true rfl ⟨hctl, fun p hp hpP => hsome ⟨p, hp, hpP⟩⟩

/-- A decomposition that leaves `P` has an element `2 ^ k` with `K <= k`. -/
theorem two_pow_K_le_of_mem_pexp {c : Config} {j p : Nat} (hp : p ∈ pexp j) (hP : p ∉ P c.W) : 2 ^ c.K ≤ j := by
  obtain ⟨k, rfl, hk⟩ := (mem_pexp j p).mp hp
  have hK : c.K ≤ k := by rwa [two_pow_mem_P, Nat.not_lt] at hP
  calc 2 ^ c.K ≤ 2 ^ k := Nat.pow_le_pow_right (by omega) hK
    _ ≤ j := Nat.ge_two_pow_of_testBit hk

/-- A decomposition outside `P` has no element below `2 ^ K`: the low `K` bits of the position are 0. -/
theorem two_pow_K_dvd_of_pexp_disjoint {c : Config} {j : Nat} (h : ∀ p ∈ pexp j, p ∉ P c.W) : 2 ^ c.K ∣ j := by
  apply Nat.dvd_of_mod_eq_zero
  apply Nat.eq_of_testBit_eq
  intro k
  rw [Nat.testBit_mod_two_pow, Nat.zero_testBit, Bool.and_eq_false_imp]
  intro hk
  have hkP : 2 ^ k ∈ P c.W := (two_pow_mem_P c k).mpr (of_decide_eq_true hk)
  by_contra hbit
  exact h (2 ^ k) ((two_pow_mem_pexp j k).mpr (Bool.eq_true_of_not_eq_false hbit)) hkP

end Sys2Proof.Machine
end

section
/-! The statements about control positions and the decomposition of a position (spec 41_bitblock.md). -/

namespace Sys2Proof

open Sys2Proof.Machine

/-- Settles O28: on a natural number the loop gives `P`, whose list is known up to the binary size of the number, which
is `K` for a unit of that word length. -/
theorem controlPositionsArePowersOfTwo : Obligations.ControlPositionsArePowersOfTwo := by
  refine ⟨fun n hn => ?_, fun n hn => ?_, mem_P⟩
  · rw [getControlBits, Int.toNat_of_nonpos hn, controlLoop]
  · have hsize : n.size = Nat.log2 n + 1 := size_W ⟨n, 0, hn⟩
    rw [← hsize]
    exact P_eq_map_two_pow n

/-- Settles O29: the exponents in the decomposition are the bit indices of the position, which sum to it. -/
theorem decompositionSumsToThePosition : Obligations.DecompositionSumsToThePosition := by
  refine ⟨fun x => ⟨pexp_sum x, pexp_nodup x, pexp_ne_nil, mem_pexp x⟩, fun j k => ?_⟩
  rw [two_pow_mem_pexp, and_two_pow_ne_zero]

/-- Settles O30: below `W` the present exponents are those below `ceil(log2 L)`, beyond `W` all of `P` is present. -/
theorem parityCountIsCeilLog : Obligations.ParityCountIsCeilLog := by
  refine ⟨fun W L _ hL => ?_, fun c N hN => ⟨Q_eq_P_of_lt hN, ?_⟩⟩
  · rw [parityCount, Q_eq_map_two_pow hL, List.length_map, List.length_range]
  · rw [Q_eq_P_of_lt hN, P_length]

/-- Settles O31: a partly covered position has a bit at `K` or above, an uncovered one has no bit below `K`. -/
theorem coverageClassesOfPositions : Obligations.CoverageClassesOfPositions := by
  intro c j hj
  refine ⟨posClass_eq_control_iff c.W j, posClass_eq_fullyCovered_iff c.W j, posClass_eq_partlyCovered_iff c.W j,
    posClass_eq_uncovered_iff c.W hj, fun hpartly => ?_, fun huncovered => ?_⟩
  · obtain ⟨-, -, p, hp, hpP⟩ := (posClass_eq_partlyCovered_iff c.W j).mp hpartly
    exact two_pow_K_le_of_mem_pexp hp hpP
  · obtain ⟨-, hnone⟩ := (posClass_eq_uncovered_iff c.W hj).mp huncovered
    obtain ⟨t, rfl⟩ := two_pow_K_dvd_of_pexp_disjoint hnone
    exact ⟨t, Nat.pos_of_mul_pos_left hj, rfl⟩

end Sys2Proof
end

section
/-! Reads after a write, an insertion and a deletion of the sequence operations, one at a time and then folded over an
ascending list of positions (spec 00_scope.md R11, R12), as placeholder insertion (42_encoder.md R75, R76) and deletion
(43_decoder.md R90) fold them. -/

namespace Sys2Proof.Machine

theorem bitAt_setAt_ne (b : BitSeq) {j k : Nat} (v : Bool) (h : k ≠ j) : bitAt (setAt b j v) k = bitAt b k := by
  cases j with
  | zero => rfl
  | succ j =>
    cases k with
    | zero => rfl
    | succ k =>
      have hjk : j ≠ k := by omega
      simp [setAt, List.getD_eq_getElem?_getD, hjk]

theorem bitAt_flipAt_ne (b : BitSeq) {j k : Nat} (h : k ≠ j) : bitAt (flipAt b j) k = bitAt b k :=
  bitAt_setAt_ne b _ h

theorem bitAt_insertAt_self (b : BitSeq) {j : Nat} (v : Bool) (h1 : 1 ≤ j) (h2 : j ≤ b.length + 1) :
    bitAt (insertAt b j v) j = v := by
  obtain ⟨i, rfl⟩ : ∃ i, j = i + 1 := ⟨j - 1, by omega⟩
  have hi : i ≤ b.length := by omega
  simp [insertAt, List.getD_eq_getElem?_getD, List.getElem?_insertIdx_self, hi]

theorem bitAt_insertAt_of_lt (b : BitSeq) {j k : Nat} (v : Bool) (h : k < j) :
    bitAt (insertAt b j v) k = bitAt b k := by
  cases k with
  | zero => rfl
  | succ k =>
    have hk : k < j - 1 := by omega
    simp [insertAt, List.getD_eq_getElem?_getD, List.getElem?_insertIdx_of_lt hk]

theorem deleteAt_insertAt (b : BitSeq) {j : Nat} (v : Bool) (h : 1 ≤ j) : deleteAt (insertAt b j v) j = b := by
  obtain ⟨i, rfl⟩ : ∃ i, j = i + 1 := ⟨j - 1, by omega⟩
  exact List.eraseIdx_insertIdx_self v

/-- Writing at several positions of the sequence, in any order, a bit that depends on the position alone. -/
theorem bitAt_setAll (f : Nat → Bool) {ps : List Nat} {b : BitSeq} (hmem : ∀ p ∈ ps, 1 ≤ p ∧ p ≤ b.length) (k : Nat) :
    bitAt (ps.foldl (fun s p => setAt s p (f p)) b) k = if k ∈ ps then f k else bitAt b k := by
  induction ps generalizing b with
  | nil => simp
  | cons p ps ih =>
    obtain ⟨hp, hps⟩ := List.forall_mem_cons.mp hmem
    rw [List.foldl_cons, ih (by simpa using hps), bitAt_setAt b p k _ hp.1 hp.2]
    by_cases hk : k = p <;> simp [hk]

/-- Insertions above a position leave its bit alone. -/
theorem bitAt_insertAll_of_lt {ps : List Nat} (b : BitSeq) {k : Nat} (h : ∀ p ∈ ps, k < p) :
    bitAt (ps.foldl (fun s p => insertAt s p false) b) k = bitAt b k := by
  induction ps generalizing b with
  | nil => rfl
  | cons p ps ih =>
    obtain ⟨hp, hps⟩ := List.forall_mem_cons.mp h
    rw [List.foldl_cons, ih _ hps, bitAt_insertAt_of_lt b false hp]

/-- An inserted bit stays where it was inserted: later insertions are above it. -/
theorem bitAt_insertAll_of_mem {ps : List Nat} {b : BitSeq} (hps : ps.Pairwise (· < ·))
    (hmem : ∀ p ∈ ps, 1 ≤ p ∧ p ≤ b.length) {k : Nat} (hk : k ∈ ps) :
    bitAt (ps.foldl (fun s p => insertAt s p false) b) k = false := by
  induction ps generalizing b with
  | nil => simp at hk
  | cons p ps ih =>
    obtain ⟨hp, htail⟩ := List.pairwise_cons.mp hps
    obtain ⟨⟨hp1, hpb⟩, hmem'⟩ := List.forall_mem_cons.mp hmem
    rw [List.foldl_cons]
    rcases List.mem_cons.mp hk with rfl | hk
    · rw [bitAt_insertAll_of_lt _ hp, bitAt_insertAt_self b false hp1 (by omega)]
    · refine ih htail (fun q hq => ?_) hk
      have hlen : (insertAt b p false).length = b.length + 1 := insertAt_length b p false (by omega)
      have hq := hmem' q hq
      omega

/-- Deleting what was inserted, the highest position first, gives the sequence back. -/
theorem deleteAll_insertAll {ps : List Nat} (b : BitSeq) (hpos : ∀ p ∈ ps, 1 ≤ p) :
    ps.reverse.foldl deleteAt (ps.foldl (fun s p => insertAt s p false) b) = b := by
  induction ps generalizing b with
  | nil => rfl
  | cons p ps ih =>
    obtain ⟨hp, hps⟩ := List.forall_mem_cons.mp hpos
    rw [List.foldl_cons, List.reverse_cons, List.foldl_append, ih _ hps, List.foldl_cons, List.foldl_nil,
      deleteAt_insertAt b false hp]

theorem bitAt_map_positions (f : Nat → Bool) {n j : Nat} (h1 : 1 ≤ j) (h2 : j ≤ n) :
    bitAt ((positions n).map f) j = f j := by
  obtain ⟨k, rfl⟩ : ∃ k, j = k + 1 := ⟨j - 1, by omega⟩
  have hk : k < n := by omega
  simp [positions, List.getD_eq_getElem?_getD, hk]

@[simp] theorem map_bitAt_positions (b : BitSeq) : (positions b.length).map (bitAt b) = b := by
  refine ext_bitAt (by simp) fun j h1 h2 => bitAt_map_positions (bitAt b) h1 ?_
  simpa using h2

/-- The positions below, at and above `k + 1`. -/
theorem positions_split (k m : Nat) :
    positions (k + 1 + m) = positions k ++ (k + 1) :: (positions m).map (k + 1 + ·) := by
  simp [positions, List.range_add, Nat.add_assoc]

/-- The positions up to `k` lie outside a list of greater ones. -/
theorem filter_positions_of_lt {qs : List Nat} {k : Nat} (h : ∀ q ∈ qs, k < q) :
    ((positions k).filter fun j => decide (j ∉ qs)) = positions k := by
  refine List.filter_eq_self.mpr fun j hj => decide_eq_true fun hjq => ?_
  obtain ⟨-, hjk⟩ := (mem_positions k j).mp hj
  exact absurd hjk (Nat.not_le.mpr (h j hjq))

/-- Deleting at position `p` the bits outside `ps`, which all lie above `p`, leaves the bits outside `p :: ps`. -/
theorem deleteAt_map_positions {ps : List Nat} {p n : Nat} (f : Nat → Bool) (hps : ∀ q ∈ ps, p < q) (h1 : 1 ≤ p)
    (h2 : p ≤ n) : deleteAt (((positions n).filter fun j => decide (j ∉ ps)).map f) p =
      ((positions n).filter fun j => decide (j ∉ p :: ps)).map f := by
  obtain ⟨k, rfl⟩ : ∃ k, p = k + 1 := ⟨p - 1, by omega⟩
  obtain ⟨m, rfl⟩ : ∃ m, n = k + 1 + m := ⟨n - (k + 1), by omega⟩
  have hself : k + 1 ∉ ps := fun h => lt_irrefl _ (hps _ h)
  have hbelow := filter_positions_of_lt (k := k) fun q hq => by have := hps q hq; omega
  have hbelow' : ((positions k).filter fun j => decide (j ∉ (k + 1) :: ps)) = positions k :=
    filter_positions_of_lt (List.forall_mem_cons.mpr ⟨k.lt_succ_self, fun q hq => by have := hps q hq; omega⟩)
  have habove : (((positions m).map (k + 1 + ·)).filter fun j => decide (j ∉ (k + 1) :: ps)) =
      ((positions m).map (k + 1 + ·)).filter fun j => decide (j ∉ ps) := by
    refine List.filter_congr fun j hj => ?_
    have hj : j ≠ k + 1 := by
      rintro rfl
      simp at hj
    simp [hj]
  rw [positions_split, List.filter_append, List.filter_append, hbelow, hbelow',
    List.filter_cons_of_pos (by simpa using hself), List.filter_cons_of_neg (by simp), habove, List.map_append,
    List.map_append, List.map_cons, deleteAt, List.eraseIdx_append_of_length_le (by simp)]
  simp

/-- Deleting at positions of the sequence, the highest first, leaves the bits at the other positions, in order. -/
theorem deleteAll_eq_map {ps : List Nat} {b : BitSeq} (hps : ps.Pairwise (· < ·))
    (hmem : ∀ p ∈ ps, 1 ≤ p ∧ p ≤ b.length) :
    ps.reverse.foldl deleteAt b = ((positions b.length).filter fun j => decide (j ∉ ps)).map (bitAt b) := by
  induction ps with
  | nil => simp
  | cons p ps ih =>
    obtain ⟨hp, htail⟩ := List.pairwise_cons.mp hps
    obtain ⟨⟨hp1, hpb⟩, hmem'⟩ := List.forall_mem_cons.mp hmem
    rw [List.reverse_cons, List.foldl_append, ih htail hmem', List.foldl_cons, List.foldl_nil,
      deleteAt_map_positions (bitAt b) hp hp1 hpb]

end Sys2Proof.Machine
end

section
/-! The parity map as XOR trees (spec 43_decoder.md R83, R84): each step of the loop of R83 leaves at each control
position the old bit XOR what the step contributes. -/

namespace Sys2Proof.Machine

/-- Position `j` feeds the parity of `p`, as the tests in `cov` and in `parityOfData` say it (41_bitblock.md R73). -/
def feeds (W p j : Nat) : Bool := decide (j ∉ P W) && decide (j &&& p ≠ 0)

theorem feeds_iff (W p j : Nat) : feeds W p j = true ↔ j ∉ P W ∧ j &&& p ≠ 0 := by simp [feeds]

theorem cov_eq_filter_feeds (W p n : Nat) : cov W p n = (positions n).filter (feeds W p) := rfl

theorem parityOfData_eq (W : Nat) (d : BitSeq) (p : Nat) : parityOfData W d p =
    xorAll (((positions d.length).filter fun t => feeds W p (pos W d.length t)).map (bitAt d)) := rfl

/-- An XOR over selected terms is one over all terms, each masked by its selection. -/
theorem xorAll_map_filter {α : Type} (q f : α → Bool) (l : List α) :
    xorAll ((l.filter q).map f) = xorAll (l.map fun x => q x && f x) := by
  induction l with
  | nil => rfl
  | cons x l ih => cases hq : q x <;> simp [hq, ih]

theorem lookup_toggle (S : ParityMap) (q p : Nat) :
    (S.toggle q).lookup p = (S.lookup p).map (· ^^ decide (p = q)) := by
  induction S with
  | nil => rfl
  | cons e S ih =>
    obtain ⟨x, v⟩ := e
    have hcons : ParityMap.toggle ((x, v) :: S) q = (x, v ^^ decide (x = q)) :: ParityMap.toggle S q := by
      by_cases hx : x = q <;> simp [ParityMap.toggle, hx]
    rw [hcons, List.lookup_cons, List.lookup_cons, ih]
    by_cases hp : p = x
    · simp [hp]
    · simp [beq_false_of_ne hp]

/-- Toggling at each of several different positions toggles each of them once. -/
theorem lookup_foldl_toggle {qs : List Nat} (hqs : qs.Nodup) (S : ParityMap) (p : Nat) :
    (qs.foldl ParityMap.toggle S).lookup p = (S.lookup p).map (· ^^ decide (p ∈ qs)) := by
  induction qs generalizing S with
  | nil => simp
  | cons q qs ih =>
    obtain ⟨hq, hqs⟩ := List.nodup_cons.mp hqs
    rw [List.foldl_cons, ih hqs, lookup_toggle, Option.map_map]
    congr 1
    funext v
    by_cases hp : p = q
    · subst hp; simp [hq]
    · simp [hp]

theorem mem_pexp_iff_and_ne_zero {W p : Nat} (hp : p ∈ P W) (j : Nat) : p ∈ pexp j ↔ j &&& p ≠ 0 := by
  obtain ⟨⟨k, rfl⟩, -⟩ := (mem_P W p).mp hp
  rw [two_pow_mem_pexp, and_two_pow_ne_zero]

/-- One round of R83 adds the bit at `j` to the parities that `j` feeds. -/
theorem lookup_syndromeRound {W p : Nat} (hp : p ∈ P W) (c : BitSeq) (S : ParityMap) (j : Nat) :
    (syndromeRound W c S j).lookup p = (S.lookup p).map (· ^^ (feeds W p j && bitAt c j)) := by
  rw [syndromeRound]
  split_ifs with hctl hbit
  · simp [feeds, hctl]
  · simp [lookup_foldl_toggle (pexp_nodup j), mem_pexp_iff_and_ne_zero hp, feeds, hctl, hbit]
  · simp [hbit]

theorem lookup_foldl_syndromeRound {W p : Nat} (hp : p ∈ P W) (c : BitSeq) (js : List Nat) (S : ParityMap) :
    (js.foldl (syndromeRound W c) S).lookup p =
      (S.lookup p).map (· ^^ xorAll (js.map fun j => feeds W p j && bitAt c j)) := by
  induction js generalizing S with
  | nil => simp
  | cons j js ih =>
    rw [List.foldl_cons, ih, lookup_syndromeRound hp, Option.map_map]
    congr 1
    funext v
    simp

theorem lookup_map_false {ps : List Nat} {p : Nat} (hp : p ∈ ps) :
    (ps.map fun q => (q, false)).lookup p = some false := by
  induction ps with
  | nil => simp at hp
  | cons q ps ih =>
    rw [List.map_cons, List.lookup_cons]
    by_cases hq : p = q
    · simp [hq]
    · rw [beq_false_of_ne hq]
      exact ih ((List.mem_cons.mp hp).resolve_left hq)

/-- The loop of R83 gives at each control position the XOR tree of R84. -/
theorem bit_computeSyndrome {W p : Nat} (hp : p ∈ P W) (c : BitSeq) :
    (computeSyndrome W c).bit p = parityTree W c p := by
  rw [ParityMap.bit, computeSyndrome, lookup_foldl_syndromeRound hp, lookup_map_false hp, parityTree,
    cov_eq_filter_feeds, xorAll_map_filter]
  simp

/-- An XOR tree reads no control position. -/
theorem parityTree_congr {W : Nat} {b c : BitSeq} (hlen : b.length = c.length)
    (h : ∀ j, j ∉ P W → bitAt b j = bitAt c j) (p : Nat) : parityTree W b p = parityTree W c p := by
  have hmap : (cov W p b.length).map (bitAt b) = (cov W p b.length).map (bitAt c) :=
    List.map_congr_left fun j hj =>
      have ⟨_, hctl, _⟩ := (mem_cov W p b.length j).mp hj
      h j hctl
  rw [parityTree, hmap, hlen, parityTree]

theorem parityTree_flipAt {W p : Nat} (hp : p ∈ P W) (b : BitSeq) (q : Nat) :
    parityTree W (flipAt b p) q = parityTree W b q := by
  refine parityTree_congr (flipAt_length b p) (fun j hj => bitAt_flipAt_ne b ?_) q
  rintro rfl
  exact hj hp

end Sys2Proof.Machine
end

section
/-! The bits of an encoded block (spec 42_encoder.md R76, R78, R79): where the data bits and the parity bits stand after
insertion and after the parity bits are set. -/

namespace Sys2Proof.Machine

theorem mem_Q_range {W n p : Nat} (hp : p ∈ Q W n) : 1 ≤ p ∧ p < n := by
  obtain ⟨hP, hlt⟩ := (mem_Q W n p).mp hp
  exact ⟨pos_of_mem_P hP, hlt⟩

theorem mem_Q_range_encInsert {W p : Nat} {d : BitSeq} (hp : p ∈ Q W d.length) :
    1 ≤ p ∧ p ≤ (encInsert W d).length := by
  have := mem_Q_range hp
  rw [encInsert_length]
  omega

/-- The placeholders are 0 (R75, R76). -/
theorem bitAt_encInsert_of_mem_Q {W p : Nat} {d : BitSeq} (hp : p ∈ Q W d.length) :
    bitAt (encInsert W d) p = false :=
  bitAt_insertAll_of_mem (Q_ascending W d.length) (fun _ hq => (mem_Q_range hq).imp_right Nat.le_of_lt) hp

/-- Around the placeholders stand the data bits, in order: deleting the placeholders gives them back (R76). -/
theorem map_bitAt_encInsert (W : Nat) (d : BitSeq) :
    (dataPositions W d.length).map (bitAt (encInsert W d)) = d := by
  have hdelete := deleteAll_eq_map (Q_ascending W d.length) fun p hp => mem_Q_range_encInsert (d := d) hp
  rw [encInsert_length] at hdelete
  rw [dataPositions, ← hdelete]
  exact deleteAll_insertAll d fun p hp => (mem_Q_range hp).1

@[simp] theorem dataPositions_length (W : Nat) (d : BitSeq) : (dataPositions W d.length).length = d.length := by
  simpa using congrArg List.length (map_bitAt_encInsert W d)

/-- `pos` lists the data positions (30_encoding.md R61). -/
theorem dataPositions_eq_map_pos (W : Nat) (d : BitSeq) :
    dataPositions W d.length = (positions d.length).map (pos W d.length) := by
  apply List.ext_getElem (by simp)
  intro i h1 h2
  rw [List.getElem_map, pos, List.getD_eq_getElem _ _ (by simpa [positions] using h1)]
  simp [positions]

theorem pos_mem_dataPositions {W t : Nat} {d : BitSeq} (h1 : 1 ≤ t) (h2 : t ≤ d.length) :
    pos W d.length t ∈ dataPositions W d.length := by
  rw [dataPositions_eq_map_pos]
  exact List.mem_map_of_mem ((mem_positions _ _).mpr ⟨h1, h2⟩)

/-- Every data position is `pos(t)` for the `t` of its place among them. -/
theorem pos_idxOf {W L j : Nat} (hj : j ∈ dataPositions W L) :
    pos W L ((dataPositions W L).idxOf j + 1) = j := by
  have hlt := List.idxOf_lt_length_iff.mpr hj
  simp [pos, List.getD_eq_getElem?_getD, hlt]

/-- There are as many data positions as data bits. -/
theorem idxOf_lt_length_of_mem_dataPositions {W j : Nat} {d : BitSeq} (hj : j ∈ dataPositions W d.length) :
    (dataPositions W d.length).idxOf j + 1 ≤ d.length := by
  simpa using List.idxOf_lt_length_iff.mpr hj

theorem bitAt_encInsert_pos {W t : Nat} {d : BitSeq} (h1 : 1 ≤ t) (h2 : t ≤ d.length) :
    bitAt (encInsert W d) (pos W d.length t) = bitAt d t := by
  have hbits := map_bitAt_encInsert W d
  rw [dataPositions_eq_map_pos, List.map_map] at hbits
  calc bitAt (encInsert W d) (pos W d.length t)
      = bitAt ((positions d.length).map (bitAt (encInsert W d) ∘ pos W d.length)) t :=
        (bitAt_map_positions (bitAt (encInsert W d) ∘ pos W d.length) h1 h2).symm
    _ = bitAt d t := by rw [hbits]

/-- Setting the parity bits changes the bits at the present control positions alone. -/
theorem bitAt_encodeBlock (W : Nat) (d : BitSeq) (k : Nat) : bitAt (encodeBlock W d) k =
    if k ∈ Q W d.length then parityTree W (encInsert W d) k else bitAt (encInsert W d) k := by
  rw [encodeBlock, bitAt_setAll _ fun p hp => mem_Q_range_encInsert hp]
  split_ifs with hk
  · exact bit_computeSyndrome ((mem_Q W d.length k).mp hk).1 _
  · rfl

/-- The data bits stand at their positions, unchanged (R78). -/
theorem bitAt_encodeBlock_pos {W t : Nat} {d : BitSeq} (h1 : 1 ≤ t) (h2 : t ≤ d.length) :
    bitAt (encodeBlock W d) (pos W d.length t) = bitAt d t := by
  obtain ⟨-, hQ⟩ := (mem_dataPositions W d.length _).mp (pos_mem_dataPositions h1 h2)
  rw [bitAt_encodeBlock, if_neg hQ, bitAt_encInsert_pos h1 h2]

theorem parityTree_encodeBlock (W : Nat) (d : BitSeq) (p : Nat) :
    parityTree W (encodeBlock W d) p = parityTree W (encInsert W d) p := by
  refine parityTree_congr (by rw [encodeBlock_length, encInsert_length]) (fun j hj => ?_) p
  have hjQ : j ∉ Q W d.length := fun h => hj ((mem_Q W d.length j).mp h).1
  rw [bitAt_encodeBlock, if_neg hjQ]

/-- A parity bit is the tree over the block's own bits (R78). -/
theorem bitAt_encodeBlock_of_mem_Q {W p : Nat} {d : BitSeq} (hp : p ∈ Q W d.length) :
    bitAt (encodeBlock W d) p = parityTree W (encodeBlock W d) p := by
  rw [bitAt_encodeBlock, if_pos hp, parityTree_encodeBlock]

/-- The positions that feed a parity hold data bits: they are the `pos(t)` of the data indices that feed it (R78). -/
theorem cov_eq_map_pos (W p : Nat) (d : BitSeq) : cov W p (d.length + parityCount W d.length) =
    ((positions d.length).filter fun t => feeds W p (pos W d.length t)).map (pos W d.length) := by
  have hdata : cov W p (d.length + parityCount W d.length) = (dataPositions W d.length).filter (feeds W p) := by
    rw [cov_eq_filter_feeds, dataPositions, List.filter_filter]
    refine List.filter_congr fun j _ => ?_
    cases hfeeds : feeds W p j with
    | false => rfl
    | true =>
      obtain ⟨hj, -⟩ := (feeds_iff W p j).mp hfeeds
      simp [hj]
  rw [hdata, dataPositions_eq_map_pos, List.filter_map]
  rfl

/-- The two written forms of a parity bit agree (R78). -/
theorem parityTree_encodeBlock_eq_parityOfData (W : Nat) (d : BitSeq) (p : Nat) :
    parityTree W (encodeBlock W d) p = parityOfData W d p := by
  rw [parityTree, encodeBlock_length, cov_eq_map_pos, List.map_map, parityOfData_eq]
  congr 1
  refine List.map_congr_left fun t ht => ?_
  obtain ⟨h1, h2⟩ := (mem_positions d.length t).mp (List.mem_filter.mp ht).1
  exact bitAt_encodeBlock_pos h1 h2

/-- Both forms hold the parity bits in the present control positions and the data bits in the others. -/
theorem encodeBlock_eq_encodeParallel (W : Nat) (d : BitSeq) : encodeBlock W d = encodeParallel W d := by
  have hlen : (encodeBlock W d).length = (encodeParallel W d).length := by simp [encodeBlock_length, encodeParallel]
  refine ext_bitAt hlen fun j h1 h2 => ?_
  rw [encodeBlock_length] at h2
  rw [encodeParallel, bitAt_map_positions _ h1 h2]
  split_ifs with hj
  · rw [bitAt_encodeBlock_of_mem_Q hj, parityTree_encodeBlock_eq_parityOfData]
  · have hdata : j ∈ dataPositions W d.length := (mem_dataPositions W d.length j).mpr ⟨⟨h1, h2⟩, hj⟩
    have hbit := bitAt_encodeBlock_pos (W := W) (Nat.le_add_left 1 _) (idxOf_lt_length_of_mem_dataPositions hdata)
    rwa [pos_idxOf hdata] at hbit

end Sys2Proof.Machine
end

section
/-! The length of an encoded block (spec 42_encoder.md R81; 41_bitblock.md R72). -/

namespace Sys2Proof.Machine

theorem clog_W_of_not_powerOfTwo {c : Config} (h : ¬powerOfTwo c.W) : Nat.clog 2 c.W = c.K := by
  apply le_antisymm
  · exact (Nat.clog_le_iff_le_pow Nat.one_lt_two).mpr (W_lt_two_pow_K c).le
  · have hlt : 2 ^ (c.K - 1) < c.W := lt_of_le_of_ne (two_pow_K_le c) fun he => h ⟨_, he.symm⟩
    have := (Nat.lt_clog_iff_pow_lt Nat.one_lt_two).mpr hlt
    omega

theorem clog_W_of_powerOfTwo {c : Config} (h : powerOfTwo c.W) : Nat.clog 2 c.W = c.K - 1 := by
  obtain ⟨k, hk⟩ := h
  rw [Config.K, hk, Nat.clog_pow 2 k Nat.one_lt_two, Nat.log2_two_pow, Nat.add_sub_cancel]

theorem encodeBlock_length_eq_clog {W : Nat} {d : BitSeq} (h : d.length ≤ W) :
    (encodeBlock W d).length = d.length + Nat.clog 2 d.length := by
  rw [encodeBlock_length, parityCount, Q_eq_map_two_pow h, List.length_map, List.length_range]

end Sys2Proof.Machine
end

section
/-! `ENC` and `DEC` on the registers (spec 42_encoder.md R80; 43_decoder.md R92; 60_exceptions.md R114). -/

namespace Sys2Proof.Machine

variable {c : Config} (r : Regs c)

/-- `ENC` and `DEC` write a result without a fault or record LEN_FAULT. -/
theorem perform_enc_or_dec {len bits : Nat} {i : Instr} (hi : i = .enc len bits ∨ i = .dec len bits) :
    (∃ op out, r.perform i = r.putResult op out) ∨ ∃ op, r.perform i = r.lenFault op := by
  obtain rfl | rfl := hi
  · by_cases h : len = 0 ∨ c.W < len
    · exact .inr ⟨_, r.enc_of_illegal h bits⟩
    · exact .inl ⟨_, _, r.enc_of_legal (by omega) bits⟩
  · by_cases h : len = 0 ∨ c.NMAX < len
    · exact .inr ⟨_, r.dec_of_illegal h bits⟩
    · exact .inl ⟨_, _, r.dec_of_legal (by omega) bits⟩

/-- Neither command touches a counter or the ILLEGAL_OP bit, and with a legal length neither touches STATUS. -/
theorem enc_or_dec_frame {len bits : Nat} {i : Instr} (hi : i = .enc len bits ∨ i = .dec len bits) :
    r.sameCounters (r.perform i) ∧ (r.perform i).status.getLsbD 0 = r.status.getLsbD 0 ∧
    (i = .enc len bits → 1 ≤ len → len ≤ c.W → (r.perform i).status = r.status) ∧
    (i = .dec len bits → 1 ≤ len → len ≤ c.NMAX → (r.perform i).status = r.status) := by
  obtain ⟨hcounters, hbit⟩ :
      r.sameCounters (r.perform i) ∧ (r.perform i).status.getLsbD 0 = r.status.getLsbD 0 := by
    obtain ⟨op, out, hr⟩ | ⟨op, hr⟩ := perform_enc_or_dec r hi <;> rw [hr]
    · exact ⟨⟨rfl, rfl, rfl⟩, rfl⟩
    · exact ⟨⟨rfl, rfl, rfl⟩, by simp⟩
  refine ⟨hcounters, hbit, ?_, ?_⟩
  · rintro rfl h1 hW
    rw [perform_enc, r.enc_of_legal ⟨h1, hW⟩, Regs.putResult_status]
  · rintro rfl h1 hN
    rw [perform_dec, r.dec_of_legal ⟨h1, hN⟩, Regs.putResult_status]

end Sys2Proof.Machine
end

section
/-! The statements about the encoder (spec 42_encoder.md). -/

namespace Sys2Proof

open Sys2Proof.Machine

/-- Settles O14: a legal length writes the code block, which fits the bus, and an illegal one records LEN_FAULT. -/
theorem encWritesTheCodeBlock : Obligations.EncWritesTheCodeBlock := by
  refine ⟨fun s L bits => exec_eq_perform _ s, fun c r L bits => ⟨(enc_or_dec_frame r (.inl rfl)).1, fun h1 hW => ?_,
    fun hbad => ?_⟩⟩
  · have hfits : (encodeBlock c.W (operand L bits)).length ≤ c.NMAX := encodeBlock_length_le_NMAX (by simpa using hW)
    rw [perform_enc, r.enc_of_legal ⟨h1, hW⟩]
    obtain ⟨hrecord, -, hstatus⟩ := r.putResult_spec 1 hfits
    refine ⟨hrecord, ?_, hstatus⟩
    rw [r.putResult_resLen_toNat 1 hfits, encodeBlock_length, operand_length]
  · rw [perform_enc, r.enc_of_illegal hbad]
    obtain ⟨hrecord, -, hstatus⟩ := r.recordFault_spec 1 2 2
    exact ⟨hrecord, hstatus⟩

/-- Settles O32: a placeholder stays where it was inserted, and deleting the placeholders gives the data block back. -/
theorem insertionGivesTheLayout : Obligations.InsertionGivesTheLayout := by
  intro W d _ _
  exact ⟨encInsert_length W d, fun p hp => bitAt_encInsert_of_mem_Q hp, map_bitAt_encInsert W d⟩

/-- Settles O34: the two forms agree at every position, parity or data, whatever the length of the block. -/
theorem encodingEqualsParallelForm : Obligations.EncodingEqualsParallelForm := by
  intro W d _ _
  exact encodeBlock_eq_encodeParallel W d

/-- Settles O35: setting the parity bits leaves the data bits alone, and the parity trees read data positions alone. -/
theorem codeBlockBits : Obligations.CodeBlockBits := by
  intro W d _ _
  refine ⟨fun t h1 h2 => bitAt_encodeBlock_pos h1 h2, fun p hp => ⟨bitAt_encodeBlock_of_mem_Q hp, ?_⟩⟩
  rw [bitAt_encodeBlock_of_mem_Q hp, parityTree_encodeBlock_eq_parityOfData]

/-- Settles O36: the parity bits are the block's own XOR trees, and the loop of R83 computes those. -/
theorem codeBlockMatchesItsParityMap : Obligations.CodeBlockMatchesItsParityMap := by
  intro W d _ _ p hp
  rw [bitAt_encodeBlock_of_mem_Q hp, bit_computeSyndrome ((mem_Q W d.length p).mp hp).1]

/-- Settles O37: the parity bits are `ceil(log2 L)` many, which for `L = W` is `K`, or one less for a power of two. -/
theorem codeBlockLength : Obligations.CodeBlockLength := by
  intro c d _ hW
  have hlen := encodeBlock_length_eq_clog hW
  refine ⟨hlen, encodeBlock_length_le_NMAX hW, NMAX_lt_two_pow_LW c, fun hfull hnot => ?_, fun hfull hpow => ?_⟩
  · rw [hlen, hfull, clog_W_of_not_powerOfTwo hnot]
  · have hK : 1 ≤ c.K := Nat.le_add_left 1 _
    rw [hlen, hfull, clog_W_of_powerOfTwo hpow, Nat.add_sub_assoc hK]

/-- Settles O38: a control position that is not below `L` got no placeholder, and no parity tree reads a control
position. -/
theorem dataAtControlPositionIsUnprotected : Obligations.DataAtControlPositionIsUnprotected := by
  intro W d p _ _ hP hLp hpN
  have hdata : p ∈ dataPositions W d.length := by
    rw [mem_dataPositions, mem_Q]
    exact ⟨⟨pos_of_mem_P hP, hpN⟩, fun ⟨_, hlt⟩ => by omega⟩
  exact ⟨⟨_, Nat.le_add_left 1 _, idxOf_lt_length_of_mem_dataPositions hdata, pos_idxOf hdata⟩,
    fun b q _ => parityTree_flipAt hP b q⟩

/-- Settles O20: on the machine `ENC` and `DEC` are the commands on its registers, which keep the counters and set no
STATUS bit but LEN_FAULT. -/
theorem frameOfEncAndDec : Obligations.FrameOfEncAndDec := by
  refine ⟨fun s t len bits i hi h => ?_, fun c r len bits i hi => enc_or_dec_frame r hi⟩
  rw [exec_eq_perform] at h
  cases h
  exact ⟨rfl, enc_or_dec_frame s.regs hi⟩

end Sys2Proof
end

section
/-! What the decoder's functions give (spec 43_decoder.md R83 to R91, R97): stripping as a selection of positions, the
mismatch set with the parity trees, and which bit a repair flips. -/

namespace Sys2Proof.Machine

theorem strip_eq_uncontrolledBits (W : Nat) (b : BitSeq) : strip W b = uncontrolledBits W b :=
  deleteAll_eq_map (Q_ascending W b.length) fun _ hp => (mem_Q_range hp).imp_right Nat.le_of_lt

/-- A stripped block fits the bus, which is wider than a data word. -/
theorem strip_length_le_NMAX {c : Config} {b : BitSeq} (h : b.length ≤ c.NMAX) : (strip c.W b).length ≤ c.NMAX :=
  (strip_length_le_W h).trans (Nat.le_add_right _ _)

/-- A longer block has every control position that a shorter one has (R71). -/
theorem Q_sublist_Q (W : Nat) {m n : Nat} (h : m ≤ n) : (Q W m).Sublist (Q W n) :=
  List.monotone_filter_right _ fun _ hp => decide_eq_true ((of_decide_eq_true hp).trans_le h)

/-- Decoding takes out of a code block as many bits as encoding put in exactly when both use the same positions (R91). -/
theorem strip_encodeBlock_length_eq_iff (W : Nat) {d : BitSeq} (h1 : 1 ≤ d.length) :
    (strip W (encodeBlock W d)).length = d.length ↔ Q W (encodeBlock W d).length = Q W d.length := by
  have hlen : (encodeBlock W d).length = d.length + (Q W d.length).length := encodeBlock_length W d
  have hsub : (Q W d.length).Sublist (Q W (encodeBlock W d).length) := Q_sublist_Q W (by omega)
  have hle := hsub.length_le
  have hlt : (Q W (encodeBlock W d).length).length < (encodeBlock W d).length := Q_length_lt W (by omega)
  rw [strip_length]
  constructor
  · intro h
    exact (hsub.eq_of_length (by omega)).symm
  · intro h
    rw [h, hlen, Nat.add_sub_cancel]

theorem mismatches_eq_treeMismatches (W : Nat) (b : BitSeq) : mismatches W b = treeMismatches W b := by
  refine List.filter_congr fun p hp => ?_
  rw [bit_computeSyndrome ((mem_Q W b.length p).mp hp).1]

theorem errorFound_iff (M : List Nat) : errorFound M = true ↔ M ≠ [] := by simp [errorFound]

theorem outOfRange_iff (M : List Nat) (n : Nat) : outOfRange M n = true ↔ M ≠ [] ∧ n < M.sum := by
  rw [outOfRange, Bool.and_eq_true, errorFound_iff, decide_eq_true_iff, localized]

theorem flipApplied_iff (M : List Nat) (n : Nat) : flipApplied M n = true ↔ M ≠ [] ∧ M.sum ≤ n := by
  rw [flipApplied, Bool.and_eq_true, Bool.not_eq_true', ← Bool.not_eq_true, errorFound_iff, outOfRange_iff]
  exact and_congr_right fun hM => by rw [and_iff_right hM, Nat.not_lt]

theorem repair_eq_ite (M : List Nat) (b : BitSeq) :
    repair M b = if M ≠ [] ∧ M.sum ≤ b.length then flipAt b M.sum else b := by
  simp only [repair, flipApplied_iff, localized]

/-- A repair changes the bit at the sum of the mismatches, when that is a position of the block, and no other (R88). -/
theorem bitAt_repair_ne_iff (M : List Nat) {b : BitSeq} {j : Nat} (h1 : 1 ≤ j) (h2 : j ≤ b.length) :
    bitAt (repair M b) j ≠ bitAt b j ↔ M ≠ [] ∧ j = M.sum := by
  rw [repair_eq_ite]
  by_cases hj : j = M.sum
  · subst hj
    by_cases hM : M = []
    · simp [hM]
    · simp [hM, h2, bitAt_flipAt b M.sum M.sum h1 h2]
  · split_ifs <;> simp [hj, bitAt_flipAt_ne b hj]

theorem mismatchVec_getLsbD (M : List Nat) {K k : Nat} (hk : k < K) :
    (mismatchVec K M).getLsbD k = decide (2 ^ k ∈ M) := by
  rw [mismatchVec, vecOf, BitVec.getLsbD_ofNat, vecNat_testBit]
  simp [hk]

theorem mismatchVec_toNat (c : Config) (b : BitSeq) :
    (mismatchVec c.K (mismatches c.W b)).toNat = localized (mismatches c.W b) := by
  rw [mismatchVec_eq_ofNat_localized, BitVec.toNat_ofNat, Nat.mod_eq_of_lt (localized_lt_two_pow_K c b)]

/-- A control position is the sum of the mismatches only as the one mismatch, so it is present: the bits of the sum are
the mismatches (R97). -/
theorem localized_mem_Q_of_mem_P {c : Config} {b : BitSeq} (h : localized (mismatches c.W b) ∈ P c.W) :
    localized (mismatches c.W b) ∈ Q c.W b.length := by
  obtain ⟨⟨k, hk⟩, -⟩ := (mem_P c.W _).mp h
  have hkK : k < c.K := by rwa [hk, two_pow_mem_P] at h
  have hbit : (mismatchVec c.K (mismatches c.W b)).getLsbD k = true := by
    rw [BitVec.getLsbD, mismatchVec_toNat, hk, Nat.testBit_two_pow_self]
  rw [mismatchVec_getLsbD _ hkK] at hbit
  rw [hk]
  exact (List.mem_filter.mp (of_decide_eq_true hbit)).1

end Sys2Proof.Machine
end

section
/-! The decoder's commands on the registers (spec 43_decoder.md R89, R93 to R95; 60_exceptions.md R114): the record and
the counters after `DECFIX`, and what `NOP`, `CLRSTAT` and the reserved op codes leave. -/

namespace Sys2Proof.Machine

variable {c : Config} (r : Regs c)

/-- The check fields of a block, written over a plain record, make it a checked record: the position fits its field. -/
theorem Regs.putCheck_checkedRecord {r : Regs c} {out : BitSeq} (h : r.plainRecord 3 out 0) (b : BitSeq) (n : Nat) :
    (r.putCheck (mismatches c.W b) n).checkedRecord (mismatches c.W b) n out := by
  obtain ⟨hop, hlen, hresult, hbits, -, -, -, -, -, hflt, hvalid⟩ := h
  refine ⟨hop, hlen, hresult, hbits, rfl, errorFound_iff _, ?_, fun k hk => ?_, outOfRange_iff _ n, hflt, hvalid⟩
  · rw [Regs.putCheck_resPos, BitVec.toNat_ofNat]
    exact Nat.mod_eq_of_lt (localized_lt_two_pow_K c b)
  · rw [Regs.putCheck_resMism, mismatchVec_getLsbD _ hk, decide_eq_true_iff]

/-- `DECFIX` on a block that fits the bus reports its mismatches and returns the repaired block, stripped (R93). -/
theorem Regs.checkBlock_checkedRecord {b : BitSeq} (h : b.length ≤ c.NMAX) :
    (r.checkBlock b).checkedRecord (mismatches c.W b) b.length (strip c.W (repair (mismatches c.W b) b)) := by
  have hfits : (strip c.W (repair (mismatches c.W b) b)).length ≤ c.NMAX :=
    strip_length_le_NMAX (by rwa [repair_length])
  exact Regs.putCheck_checkedRecord (Regs.putResult_spec _ 3 hfits).1 b b.length

/-- The counters after `DECFIX` on a block are those of `countBlock`, in one of the three cases of R89: its record is no
counter. -/
theorem Regs.checkBlock_counters (b : BitSeq) :
    (mismatches c.W b = [] ∧ r.countsOk (r.checkBlock b)) ∨
    (mismatches c.W b ≠ [] ∧ (mismatches c.W b).sum ≤ b.length ∧ r.countsRepair (r.checkBlock b)) ∨
    (mismatches c.W b ≠ [] ∧ b.length < (mismatches c.W b).sum ∧ (r.checkBlock b).cntOk = r.cntOk ∧
      (r.checkBlock b).cntErr = r.cntErr + 1 ∧ (r.checkBlock b).cntFix = r.cntFix) :=
  r.countBlock_spec (mismatches c.W b) b.length

theorem Regs.clrstat_spec : r.clrstat.plainRecord 4 [] 0 ∧ r.clrstat.cntOk = 0 ∧ r.clrstat.cntErr = 0 ∧
    r.clrstat.cntFix = 0 ∧ r.clrstat.status = r.status := by
  obtain ⟨hrecord, ⟨hOk, hErr, hFix⟩, hstatus⟩ := r.clearCounters.putResult_spec 4 (out := []) (Nat.zero_le _)
  exact ⟨hrecord, hOk, hErr, hFix, hstatus⟩

/-- A reserved op code records ILLEGAL_OP, whatever the code (60_exceptions.md R112). -/
theorem perform_of_isReserved {i : Instr} (h : isReserved i = true) : ∃ op, r.perform i = r.illegalOp op := by
  cases i with
  | reserved101 len bits | reserved110 len bits | reserved111 len bits => exact ⟨_, rfl⟩
  | nop | enc | dec | decfix | clrstat => cases h

/-- ILLEGAL_OP touches neither a counter nor the LEN_FAULT bit (60_exceptions.md R114). -/
theorem Regs.illegalOp_frame (op : BitVec 3) :
    r.sameCounters (r.illegalOp op) ∧ (r.illegalOp op).status.getLsbD 1 = r.status.getLsbD 1 :=
  ⟨⟨rfl, rfl, rfl⟩, by simp [Regs.illegalOp]⟩

/-- What `NOP`, `CLRSTAT` and the reserved op codes leave unchanged. -/
theorem control_frame (len bits : Nat) (i : Instr) :
    (i = .nop len bits →
      r.sameRecord (r.perform i) ∧ r.sameCounters (r.perform i) ∧ (r.perform i).status = r.status) ∧
    (i = .clrstat len bits → (r.perform i).status = r.status) ∧
    (isReserved i = true →
      r.sameCounters (r.perform i) ∧ (r.perform i).status.getLsbD 1 = r.status.getLsbD 1) := by
  refine ⟨?_, ?_, fun hi => ?_⟩
  · rintro rfl
    obtain ⟨hrecord, hcounters, hstatus, -⟩ := r.idle_spec
    exact ⟨hrecord, hcounters, hstatus⟩
  · rintro rfl
    exact r.clrstat_status
  · obtain ⟨op, hr⟩ := perform_of_isReserved r hi
    rw [hr]
    exact r.illegalOp_frame op

end Sys2Proof.Machine
end

section
/-! The counters along a sequence of commands (spec 43_decoder.md R89, R98): every legal `DECFIX` counts in exactly one
of three ways. -/

namespace Sys2Proof.Machine

variable {c : Config}

/-- From `r` to `r'` the counters took in `checked` blocks, of which `beyond` had a localized position beyond the block
and `fix` were repaired; the other `ok` were correct (R89). -/
def Regs.counted (r r' : Regs c) (checked beyond : Nat) : Prop :=
  ∃ ok fix, ok + (fix + beyond) = checked ∧ r'.cntOk = r.cntOk + BitVec.ofNat c.cntW ok ∧
    r'.cntErr = r.cntErr + BitVec.ofNat c.cntW (fix + beyond) ∧ r'.cntFix = r.cntFix + BitVec.ofNat c.cntW fix

theorem Regs.sameCounters.counted {r r' : Regs c} (h : r.sameCounters r') : r.counted r' 0 0 := by
  obtain ⟨hOk, hErr, hFix⟩ := h
  exact ⟨0, 0, rfl, hOk.trans (BitVec.add_zero _).symm, hErr.trans (BitVec.add_zero _).symm,
    hFix.trans (BitVec.add_zero _).symm⟩

theorem Regs.counted.trans {r r' r'' : Regs c} {m n m' n' : Nat} (h : r.counted r' m n) (h' : r'.counted r'' m' n') :
    r.counted r'' (m + m') (n + n') := by
  obtain ⟨ok, fix, rfl, hOk, hErr, hFix⟩ := h
  obtain ⟨ok', fix', rfl, hOk', hErr', hFix'⟩ := h'
  refine ⟨ok + ok', fix + fix', by omega, ?_, ?_, ?_⟩
  · rw [hOk', hOk, BitVec.ofNat_add, BitVec.add_assoc]
  · rw [hErr', hErr, BitVec.add_assoc, ← BitVec.ofNat_add]
    congr 2
    omega
  · rw [hFix', hFix, BitVec.ofNat_add, BitVec.add_assoc]

theorem Regs.checkBlock_counted (r : Regs c) (b : BitSeq) :
    r.counted (r.checkBlock b) 1 (outOfRange (mismatches c.W b) b.length).toNat := by
  obtain ⟨hM, hOk, hErr, hFix⟩ | ⟨hM, hin, hOk, hErr, hFix⟩ | ⟨hM, hout, hOk, hErr, hFix⟩ := r.checkBlock_counters b
  · have hrange : outOfRange (mismatches c.W b) b.length = false := by rw [hM]; rfl
    rw [hrange]
    exact ⟨1, 0, rfl, hOk, hErr.trans (BitVec.add_zero _).symm, hFix.trans (BitVec.add_zero _).symm⟩
  · have hrange : outOfRange (mismatches c.W b) b.length = false := by
      rw [← Bool.not_eq_true, outOfRange_iff]
      omega
    rw [hrange]
    exact ⟨0, 1, rfl, hOk.trans (BitVec.add_zero _).symm, hErr, hFix⟩
  · rw [(outOfRange_iff _ _).mpr ⟨hM, hout⟩]
    exact ⟨0, 0, rfl, hOk.trans (BitVec.add_zero _).symm, hErr, hFix.trans (BitVec.add_zero _).symm⟩

theorem Regs.decfix_counted (r : Regs c) (len bits : Nat) : r.counted (r.perform (.decfix len bits))
    (isCheckedDecode c (.decfix len bits)).toNat (isOutOfRangeDecode c (.decfix len bits)).toNat := by
  simp only [perform_decfix, isCheckedDecode, isOutOfRangeDecode]
  cases hlegal : decLenLegal c len with
  | true =>
    rw [r.decfix_of_legal ((decLenLegal_iff c len).mp hlegal)]
    simpa using r.checkBlock_counted (operand len bits)
  | false =>
    rw [Regs.decfix, hlegal]
    exact Regs.sameCounters.counted ⟨rfl, rfl, rfl⟩

/-- Every command but `CLRSTAT` counts a legal `DECFIX` and nothing else (R98). -/
theorem perform_counted (r : Regs c) {i : Instr} (h : isClear i = false) :
    r.counted (r.perform i) (isCheckedDecode c i).toNat (isOutOfRangeDecode c i).toNat := by
  cases i with
  | nop len bits => exact Regs.sameCounters.counted ⟨rfl, rfl, rfl⟩
  | enc len bits => exact Regs.sameCounters.counted (enc_or_dec_frame r (.inl rfl)).1
  | dec len bits => exact Regs.sameCounters.counted (enc_or_dec_frame r (.inr rfl)).1
  | decfix len bits => exact r.decfix_counted len bits
  | clrstat len bits => cases h
  | reserved101 len bits | reserved110 len bits | reserved111 len bits =>
    exact Regs.sameCounters.counted (r.illegalOp_frame _).1

theorem countP_cons_eq_toNat_add {α : Type} (q : α → Bool) (x : α) (l : List α) :
    (x :: l).countP q = (q x).toNat + l.countP q := by
  rw [List.countP_cons, Nat.add_comm]
  cases q x <;> rfl

/-- Along commands without `CLRSTAT` the counters take in every legal `DECFIX` (R98). -/
theorem performAll_counted (r : Regs c) {is : List Instr} (h : ∀ i ∈ is, isClear i = false) :
    r.counted (r.performAll is) (is.countP (isCheckedDecode c)) (is.countP (isOutOfRangeDecode c)) := by
  induction is generalizing r with
  | nil => exact Regs.sameCounters.counted ⟨rfl, rfl, rfl⟩
  | cons i is ih =>
    obtain ⟨hi, his⟩ := List.forall_mem_cons.mp h
    rw [countP_cons_eq_toNat_add, countP_cons_eq_toNat_add]
    exact (perform_counted r hi).trans (ih (r.perform i) his)

/-- The sums of R98, modulo `2 ^ CNT_W`. -/
theorem Regs.counted.modular {r r' : Regs c} {checked beyond : Nat} (h : r.counted r' checked beyond) :
    r'.cntOk + r'.cntErr = r.cntOk + r.cntErr + BitVec.ofNat c.cntW checked ∧
    r'.cntErr - r'.cntFix = r.cntErr - r.cntFix + BitVec.ofNat c.cntW beyond := by
  obtain ⟨ok, fix, rfl, hOk, hErr, hFix⟩ := h
  rw [hOk, hErr, hFix]
  simp only [BitVec.ofNat_add]
  constructor <;> ring

/-- From zero counters, and without wrapping, the sums of R98 hold of the numbers. -/
theorem Regs.counted.toNat {r r' : Regs c} {checked beyond : Nat} (h : r.counted r' checked beyond)
    (hOk0 : r.cntOk = 0) (hErr0 : r.cntErr = 0) (hFix0 : r.cntFix = 0) (hlt : checked < 2 ^ c.cntW) :
    r'.cntOk.toNat + r'.cntErr.toNat = checked ∧ r'.cntErr.toNat = r'.cntFix.toNat + beyond := by
  obtain ⟨ok, fix, rfl, hOk, hErr, hFix⟩ := h
  have hvalue {n : Nat} (hn : n ≤ ok + (fix + beyond)) : (0 + BitVec.ofNat c.cntW n).toNat = n := by
    rw [zero_add, BitVec.toNat_ofNat, Nat.mod_eq_of_lt (by omega)]
  rw [hOk, hErr, hFix, hOk0, hErr0, hFix0, hvalue (by omega), hvalue (by omega), hvalue (by omega)]
  exact ⟨rfl, rfl⟩

end Sys2Proof.Machine
end

section
/-! The statements about the decoder and the control commands (spec 43_decoder.md). -/

namespace Sys2Proof

open Sys2Proof.Machine

/-- Settles O15: a legal length writes the stripped block, which fits the bus, and an illegal one records LEN_FAULT. -/
theorem decStripsControlBits : Obligations.DecStripsControlBits := by
  refine ⟨fun s N bits => exec_eq_perform _ s, fun c r N bits => ⟨(enc_or_dec_frame r (.inr rfl)).1, fun h1 hN => ?_,
    fun hbad => ?_⟩⟩
  · have hfits : (strip c.W (operand N bits)).length ≤ c.NMAX := strip_length_le_NMAX (by simpa using hN)
    rw [perform_dec, r.dec_of_legal ⟨h1, hN⟩]
    obtain ⟨hrecord, -, hstatus⟩ := r.putResult_spec 2 hfits
    rw [strip_eq_uncontrolledBits] at hrecord hstatus ⊢
    exact ⟨hrecord, hstatus⟩
  · rw [perform_dec, r.dec_of_illegal hbad]
    obtain ⟨hrecord, -, hstatus⟩ := r.recordFault_spec 2 2 2
    exact ⟨hrecord, hstatus⟩

/-- Settles O16: a legal length checks the block, whose mismatches are those of the parity trees, and an illegal one
records LEN_FAULT. -/
theorem decfixChecksRepairsAndCounts : Obligations.DecfixChecksRepairsAndCounts := by
  refine ⟨fun s N bits => exec_eq_perform _ s, fun c r N bits => ⟨fun h1 hN => ?_, fun hbad => ?_⟩⟩
  · have hlen : (operand N bits).length = N := operand_length N bits
    have hrecord := r.checkBlock_checkedRecord (b := operand N bits) (by rwa [hlen])
    have hcounters := r.checkBlock_counters (operand N bits)
    rw [strip_eq_uncontrolledBits, repair_eq_ite, mismatches_eq_treeMismatches, hlen] at hrecord
    rw [mismatches_eq_treeMismatches, hlen] at hcounters
    rw [perform_decfix, r.decfix_of_legal ⟨h1, hN⟩]
    refine ⟨hrecord, r.checkBlock_status _, ?_⟩
    obtain ⟨hM, hcount⟩ | ⟨hM, hin, hcount⟩ | ⟨hM, hout, hcount⟩ := hcounters
    · exact ⟨fun _ => hcount, fun hne => absurd hM hne, fun hne => absurd hM hne⟩
    · exact ⟨fun hnil => absurd hnil hM, fun _ _ => hcount, fun _ hout => absurd hin (Nat.not_le.mpr hout)⟩
    · exact ⟨fun hnil => absurd hnil hM, fun _ hin => absurd hin (Nat.not_le.mpr hout), fun _ _ => hcount⟩
  · rw [perform_decfix, r.decfix_of_illegal hbad]
    exact r.recordFault_spec 3 2 2

/-- Settles O25: the sequence's counts are the sums of its commands', each of which counts a legal `DECFIX` as correct,
repaired or out of range. -/
theorem countersAccountForEveryDecfix : Obligations.CountersAccountForEveryDecfix := by
  intro c r is hclear
  have hcounted := performAll_counted r hclear
  obtain ⟨hchecked, hbeyond⟩ := hcounted.modular
  refine ⟨hchecked, hbeyond, fun hOk hErr hFix hlt => ?_⟩
  obtain ⟨hsum, hdiff⟩ := hcounted.toNat hOk hErr hFix hlt
  exact ⟨hsum, hdiff, Nat.le.intro hdiff.symm⟩

/-- Settles O33: every round of the loop adds its bit to the parities whose tree has its position. -/
theorem parityMapIsXorTrees : Obligations.ParityMapIsXorTrees := fun _ b _ hp => bit_computeSyndrome hp b

/-- Settles O39: a deletion at a position leaves the positions below it, where the later deletions are. -/
theorem strippingKeepsUncontrolledBits : Obligations.StrippingKeepsUncontrolledBits :=
  fun W b _ => strip_eq_uncontrolledBits W b

/-- Settles O40: each present control position is deleted once, and for a code block those inserted are among them. -/
theorem strippedLengthFits : Obligations.StrippedLengthFits :=
  ⟨fun c b h1 hN => ⟨strip_length c.W b, one_le_strip_length c.W h1, strip_length_le_W hN⟩,
    fun W _ h1 _ => strip_encodeBlock_length_eq_iff W h1⟩

/-- Settles O41: the mismatch vector has `K` bits and its value is the sum. -/
theorem localizedPositionFits : Obligations.LocalizedPositionFits := by
  intro c b
  refine ⟨fun hM => ?_, mismatchVec_toNat c b, fun hM => ?_⟩
  · have hpos := (localized_ne_zero_iff c.W b).mpr ((errorFound_iff _).mpr hM)
    exact ⟨Nat.one_le_iff_ne_zero.mpr hpos, Nat.le_pred_of_lt (localized_lt_two_pow_K c b)⟩
  · rw [hM]
    rfl

/-- Settles O42: the repair flips at the sum of the mismatches; if that is a control position, it is the one mismatch. -/
theorem repairFlipsAtMostOneBit : Obligations.RepairFlipsAtMostOneBit := by
  intro W b hW
  refine ⟨repair_length _ b, fun j h1 h2 => bitAt_repair_ne_iff _ h1 h2, fun _ _ => ?_⟩
  by_cases hP : (mismatches W b).sum ∈ P W
  · exact .inl (localized_mem_Q_of_mem_P (c := ⟨W, 0, hW⟩) hP)
  · exact .inr hP

/-- Settles O13: `NOP` is the idle operation, and an edge without reset and without a command is idle. -/
theorem nopOnlyClearsRspValid : Obligations.NopOnlyClearsRspValid := by
  refine ⟨fun s len bits => exec_eq_perform _ s, fun c r len bits => ⟨perform_nop r len bits, fun x hrst hvalid => ?_⟩⟩
  obtain ⟨hrst', -⟩ | ⟨-, hvalid', -⟩ | ⟨-, -, hr⟩ := unitStep_cases r x
  · simp [hrst] at hrst'
  · simp [hvalid] at hvalid'
  · rw [hr, perform_nop]

/-- Settles O17: the counters are cleared and the empty record is written. -/
theorem clrstatClearsTheCounters : Obligations.ClrstatClearsTheCounters :=
  ⟨fun s _ _ => exec_eq_perform _ s, fun _ r _ _ => r.clrstat_spec⟩

/-- Settles O22: on the machine these are the commands on its registers, an idle edge, a cleared record or a recorded
ILLEGAL_OP. -/
theorem frameOfControlCommands : Obligations.FrameOfControlCommands := by
  refine ⟨fun s t len bits i _ h => ?_, fun c r len bits i => control_frame r len bits i⟩
  rw [exec_eq_perform] at h
  cases h
  exact ⟨rfl, control_frame s.regs len bits i⟩

end Sys2Proof
end

section
/-! The control sets of encoder and decoder for one block (spec 44_stream.md R102): the decoder has every control
position of the encoder and at most one more, `2 ^ m(L)`. -/

namespace Sys2Proof.Machine

variable {W L : Nat}

theorem parityCount_eq_clog (h : L ≤ W) : parityCount W L = Nat.clog 2 L := by
  rw [parityCount, Q_eq_map_two_pow h, List.length_map, List.length_range]

theorem le_two_pow_parityCount (h : L ≤ W) : L ≤ 2 ^ parityCount W L := by
  rw [parityCount_eq_clog h]
  exact Nat.le_pow_clog Nat.one_lt_two L

theorem two_pow_mem_Q (h : L ≤ W) (k : Nat) : 2 ^ k ∈ Q W L ↔ k < parityCount W L := by
  rw [Q_eq_map_two_pow h, List.mem_map_of_injective (Nat.pow_right_injective le_rfl), List.mem_range,
    parityCount_eq_clog h]

theorem agree_eq_false_iff (W L : Nat) :
    agree W L = false ↔ 2 ^ parityCount W L ≤ W ∧ 2 ^ parityCount W L < L + parityCount W L := by
  simp [agree]

/-- The control positions of the code block that the encoder does not use are `2 ^ m(L)` alone, and only without
`agree(L)`: the next power of two is beyond the block. -/
theorem mem_P_beyond_data_iff (h : L ≤ W) (p : Nat) :
    (p ∈ P W ∧ L ≤ p ∧ p < L + parityCount W L) ↔ p = 2 ^ parityCount W L ∧ agree W L = false := by
  have hL := le_two_pow_parityCount h
  have hm : parityCount W L < 2 ^ parityCount W L := Nat.lt_two_pow_self
  rw [agree_eq_false_iff, mem_P]
  constructor
  · rintro ⟨⟨⟨k, rfl⟩, hW⟩, hLk, hk⟩
    have hle : parityCount W L ≤ k := by
      rw [parityCount_eq_clog h]
      exact (Nat.clog_le_iff_le_pow Nat.one_lt_two).mpr hLk
    have hlt : k < parityCount W L + 1 := by
      rw [← Nat.pow_lt_pow_iff_right Nat.one_lt_two, Nat.pow_succ]
      omega
    obtain rfl : k = parityCount W L := by omega
    exact ⟨rfl, hW, hk⟩
  · rintro ⟨rfl, hW, hlt⟩
    exact ⟨⟨⟨_, rfl⟩, hW⟩, hL, hlt⟩

theorem agree_iff_no_control_beyond_data (h : L ≤ W) :
    agree W L = true ↔ ¬∃ p ∈ P W, L ≤ p ∧ p < L + parityCount W L := by
  simp only [mem_P_beyond_data_iff h, exists_eq_left, Bool.not_eq_false]

theorem Q_code_of_agree (h : L ≤ W) (hagree : agree W L = true) : Q W (L + parityCount W L) = Q W L := by
  refine (Q_ascending W _).eq_of_mem_iff (Q_ascending W L) fun p => ?_
  have hnone := (agree_iff_no_control_beyond_data h).mp hagree
  rw [mem_Q, mem_Q]
  refine and_congr_right fun hp => ⟨fun hlt => ?_, fun hlt => by omega⟩
  by_contra hge
  exact hnone ⟨p, hp, by omega, hlt⟩

theorem Q_code_of_not_agree (h : L ≤ W) (hagree : agree W L = false) :
    Q W (L + parityCount W L) = Q W L ++ [2 ^ parityCount W L] := by
  have hL := le_two_pow_parityCount h
  have hasc : (Q W L ++ [2 ^ parityCount W L]).Pairwise (· < ·) := by
    refine List.pairwise_append.mpr ⟨Q_ascending W L, List.pairwise_singleton _ _, fun p hp q hq => ?_⟩
    rw [List.mem_singleton.mp hq]
    exact ((mem_Q W L p).mp hp).2.trans_le hL
  refine (Q_ascending W _).eq_of_mem_iff hasc fun p => ?_
  have hbeyond := mem_P_beyond_data_iff h p
  rw [and_iff_left hagree] at hbeyond
  rw [List.mem_append, List.mem_singleton, ← hbeyond, mem_Q, mem_Q]
  by_cases hlt : p < L
  · simp [hlt, Nat.lt_add_right _ hlt, Nat.not_le.mpr hlt]
  · simp [hlt, Nat.not_lt.mp hlt]

theorem Q_code_eq_iff_agree (h : L ≤ W) : Q W (L + parityCount W L) = Q W L ↔ agree W L = true := by
  refine ⟨fun heq => ?_, Q_code_of_agree h⟩
  by_contra hne
  have hmore := Q_code_of_not_agree h (Bool.eq_false_of_not_eq_true hne)
  rw [heq] at hmore
  exact List.cons_ne_nil _ _ (List.self_eq_append_right.mp hmore)

/-- A full block of a power of two above 1 has `2 ^ m(W) = W` as an extra control position. -/
theorem agree_full_iff (hW : 1 ≤ W) : agree W W = true ↔ ¬powerOfTwo W ∨ W = 1 := by
  have hle := le_two_pow_parityCount (le_refl W)
  have hfull : 2 ^ parityCount W W ≤ W ↔ powerOfTwo W := by
    constructor
    · exact fun hge => ⟨_, le_antisymm hle hge⟩
    · rintro ⟨k, hk⟩
      rw [parityCount_eq_clog le_rfl]
      conv_lhs => rw [hk, Nat.clog_pow 2 k Nat.one_lt_two]
      exact hk.ge
  rw [← Bool.not_eq_false, agree_eq_false_iff, hfull, not_and_or, or_congr_right']
  intro hpow
  have heq : 2 ^ parityCount W W = W := le_antisymm (hfull.mpr (not_not.mp hpow)) hle
  rw [heq, Nat.lt_add_right_iff_pos, Nat.pos_iff_ne_zero, not_not]
  constructor
  · intro hm
    rw [← heq, hm, Nat.pow_zero]
  · rintro rfl
    rw [parityCount_eq_clog le_rfl, Nat.clog_one_right]

end Sys2Proof.Machine
end

section
/-! One flipped bit (spec 44_stream.md R104, R107): what it does to the parity trees and to the mismatch set of a block
that had none, and that stripping shows it exactly when it stands at no present control position. -/

namespace Sys2Proof.Machine

theorem bitAt_flipAt_eq_xor (b : BitSeq) {j : Nat} (h1 : 1 ≤ j) (h2 : j ≤ b.length) (k : Nat) :
    bitAt (flipAt b j) k = (bitAt b k ^^ decide (k = j)) := by
  rw [bitAt_flipAt b j k h1 h2]
  by_cases hk : k = j <;> simp [hk]

theorem flipAt_flipAt (b : BitSeq) {j : Nat} (h1 : 1 ≤ j) (h2 : j ≤ b.length) :
    flipAt (flipAt b j) j = b := by
  refine ext_bitAt (by simp) fun k _ _ => ?_
  rw [bitAt_flipAt_eq_xor _ h1 (by simpa using h2), bitAt_flipAt_eq_xor b h1 h2, Bool.xor_assoc, Bool.xor_self,
    Bool.xor_false]

theorem xorAll_map_xor {α : Type} (f g : α → Bool) (l : List α) :
    xorAll (l.map fun x => f x ^^ g x) = (xorAll (l.map f) ^^ xorAll (l.map g)) := by
  induction l with
  | nil => rfl
  | cons x l ih =>
    simp only [List.map_cons, xorAll_cons, ih, Bool.xor_assoc, Bool.xor_left_comm (g x)]

/-- An XOR of terms that are 0 away from one position is the term there. -/
theorem xorAll_map_decide_eq (f : Nat → Bool) {l : List Nat} (hl : l.Nodup) {j : Nat} (hj : j ∈ l) :
    xorAll (l.map fun k => decide (k = j) && f k) = f j := by
  rw [← xorAll_map_filter, List.filter_eq, List.count_eq_one_of_mem hl hj]
  simp

theorem positions_nodup (n : Nat) : (positions n).Nodup :=
  List.nodup_range.map (add_left_injective 1)

/-- A flipped bit toggles the trees it feeds (R84). -/
theorem parityTree_flipAt_eq_xor (W p : Nat) {b : BitSeq} {j : Nat} (h1 : 1 ≤ j) (h2 : j ≤ b.length) :
    parityTree W (flipAt b j) p = (parityTree W b p ^^ feeds W p j) := by
  have hterm (k : Nat) : (feeds W p k && bitAt (flipAt b j) k) =
      ((feeds W p k && bitAt b k) ^^ (decide (k = j) && feeds W p k)) := by
    rw [bitAt_flipAt_eq_xor b h1 h2, Bool.and_xor_distrib_left, Bool.and_comm (decide _)]
  simp only [parityTree, cov_eq_filter_feeds, xorAll_map_filter, flipAt_length, hterm]
  rw [xorAll_map_xor, xorAll_map_decide_eq _ (positions_nodup _) ((mem_positions _ _).mpr ⟨h1, h2⟩)]

theorem mem_mismatches (W : Nat) (b : BitSeq) (p : Nat) :
    p ∈ mismatches W b ↔ p ∈ Q W b.length ∧ bitAt b p ≠ parityTree W b p := by
  rw [mismatches_eq_treeMismatches, treeMismatches, List.mem_filter, bne_iff_ne]

theorem mismatches_ascending (W : Nat) (b : BitSeq) : (mismatches W b).Pairwise (· < ·) := (Q_ascending W _).filter _

theorem pexp_ascending (x : Nat) : (pexp x).Pairwise (· < ·) := by
  rw [pexp_eq_map_bitIndices, List.pairwise_map]
  exact Nat.bitIndices_sorted.pairwise.imp fun h => Nat.pow_lt_pow_right (by omega) h

theorem mismatches_eq_nil_iff (W : Nat) (b : BitSeq) :
    mismatches W b = [] ↔ ∀ p ∈ Q W b.length, bitAt b p = parityTree W b p := by
  simp only [List.eq_nil_iff_forall_not_mem, mem_mismatches, not_and, not_not]

section
variable {W j : Nat} {b : BitSeq} (hclean : mismatches W b = []) (h1 : 1 ≤ j) (h2 : j ≤ b.length)
include hclean h1 h2

/-- A flipped control bit mismatches by itself, and a flipped data bit makes its decomposition mismatch, each as far as
present control positions go. -/
theorem mem_mismatches_flipAt (p : Nat) : p ∈ mismatches W (flipAt b j) ↔
    p ∈ Q W b.length ∧ (p = j ∨ j ∉ P W ∧ p ∈ pexp j) := by
  rw [mem_mismatches, flipAt_length, bitAt_flipAt_eq_xor b h1 h2, parityTree_flipAt_eq_xor W p h1 h2]
  refine and_congr_right fun hp => ?_
  have hP : p ∈ P W := ((mem_Q W _ p).mp hp).1
  rw [(mismatches_eq_nil_iff W b).mp hclean p hp, Ne, Bool.xor_right_inj, mem_pexp_iff_and_ne_zero hP, ← feeds_iff]
  by_cases hpj : p = j
  · have hfeeds : feeds W p j = false := by simp [feeds, ← hpj, hP]
    simp [hpj, ← hfeeds]
  · simp [hpj]

theorem mismatches_flipAt_of_mem_Q (hj : j ∈ Q W b.length) : mismatches W (flipAt b j) = [j] := by
  refine (mismatches_ascending W _).eq_of_mem_iff (List.pairwise_singleton _ _) fun p => ?_
  have hP : j ∈ P W := ((mem_Q W _ j).mp hj).1
  rw [mem_mismatches_flipAt hclean h1 h2, List.mem_singleton]
  constructor
  · rintro ⟨-, rfl | ⟨hnot, -⟩⟩
    · rfl
    · exact absurd hP hnot
  · rintro rfl
    exact ⟨hj, .inl rfl⟩

theorem mismatches_flipAt_of_covered (hP : j ∉ P W) (hall : ∀ p ∈ pexp j, p ∈ Q W b.length) :
    mismatches W (flipAt b j) = pexp j := by
  refine (mismatches_ascending W _).eq_of_mem_iff (pexp_ascending j) fun p => ?_
  rw [mem_mismatches_flipAt hclean h1 h2]
  constructor
  · rintro ⟨hp, rfl | ⟨-, hexp⟩⟩
    · exact absurd ((mem_Q W _ p).mp hp).1 hP
    · exact hexp
  · exact fun hexp => ⟨hall p hexp, .inr ⟨hP, hexp⟩⟩

/-- A correctable error is localized where it is (R104). -/
theorem mismatches_flipAt_of_correctable (h : correctable W b.length j) :
    mismatches W (flipAt b j) ≠ [] ∧ (mismatches W (flipAt b j)).sum = j := by
  obtain hj | ⟨hP, hall⟩ := h
  · rw [mismatches_flipAt_of_mem_Q hclean h1 h2 hj]
    exact ⟨List.cons_ne_nil _ _, List.sum_singleton⟩
  · rw [mismatches_flipAt_of_covered hclean h1 h2 hP hall]
    exact ⟨pexp_ne_nil h1, pexp_sum j⟩

/-- An error at a control position that is not present, or at an uncovered position, is missed (R104). -/
theorem mismatches_flipAt_of_unseen (hj : j ∉ Q W b.length) (h : j ∈ P W ∨ ∀ p ∈ pexp j, p ∉ P W) :
    mismatches W (flipAt b j) = [] := by
  refine List.eq_nil_iff_forall_not_mem.mpr fun p hp => ?_
  obtain ⟨hpQ, rfl | ⟨hP, hexp⟩⟩ := (mem_mismatches_flipAt hclean h1 h2 p).mp hp
  · exact hj hpQ
  · exact h.elim hP fun hnone => hnone p hexp ((mem_Q W _ p).mp hpQ).1

end

/-- A partly covered error is seen but localized below `2 ^ K`, and it stands at `2 ^ K` or above (R104). -/
theorem mismatches_flipAt_of_partlyCovered {c : Config} {j : Nat} {b : BitSeq} (hclean : mismatches c.W b = [])
    (h1 : 1 ≤ j) (h2 : j ≤ b.length) (h : posClass c.W j = .partlyCovered) :
    mismatches c.W (flipAt b j) ≠ [] ∧ (mismatches c.W (flipAt b j)).sum < j := by
  obtain ⟨hP, ⟨p, hp, hpP⟩, q, hq, hqP⟩ := (posClass_eq_partlyCovered_iff c.W j).mp h
  have hK : 2 ^ c.K ≤ j := two_pow_K_le_of_mem_pexp hq hqP
  have hW := W_lt_two_pow_K c
  have hpQ : p ∈ Q c.W b.length := by rwa [Q_eq_P_of_lt (by omega)]
  exact ⟨List.ne_nil_of_mem ((mem_mismatches_flipAt hclean h1 h2 p).mpr ⟨hpQ, .inr ⟨hP, hp⟩⟩),
    (localized_lt_two_pow_K c _).trans_le hK⟩

/-- In a block that has position `j`, a decomposition in `P` lies in the present control set, so a position that is not
correctable is of one of the three other classes. -/
theorem posClass_of_not_correctable {W n j : Nat} (h1 : 1 ≤ j) (h2 : j ≤ n) (h : ¬correctable W n j) :
    posClass W j = .control ∨ posClass W j = .uncovered ∨ posClass W j = .partlyCovered := by
  cases hclass : posClass W j with
  | control => exact .inl rfl
  | uncovered => exact .inr (.inl rfl)
  | partlyCovered => exact .inr (.inr rfl)
  | fullyCovered =>
    obtain ⟨hP, hall⟩ := (posClass_eq_fullyCovered_iff W j).mp hclass
    refine absurd (.inr ⟨hP, fun p hp => (mem_Q W n p).mpr ⟨hall p hp, ?_⟩⟩) h
    obtain ⟨k, rfl, hk⟩ := (mem_pexp j p).mp hp
    have hne : 2 ^ k ≠ j := by
      rintro rfl
      exact hP (hall _ hp)
    have hle := Nat.ge_two_pow_of_testBit hk
    omega

theorem repair_of_sum_eq {M : List Nat} {b : BitSeq} {j : Nat} (hM : M ≠ []) (hsum : M.sum = j) (h1 : 1 ≤ j)
    (h2 : j ≤ b.length) : repair M (flipAt b j) = b := by
  rw [repair_eq_ite, flipAt_length, if_pos ⟨hM, by omega⟩, hsum, flipAt_flipAt b h1 h2]

/-- Stripped blocks that are equal were equal outside the present control positions. -/
theorem bitAt_eq_of_strip_eq {W j : Nat} {a b : BitSeq} (hlen : a.length = b.length) (h : strip W a = strip W b)
    (h1 : 1 ≤ j) (h2 : j ≤ b.length) (hj : j ∉ Q W b.length) : bitAt a j = bitAt b j := by
  rw [strip_eq_uncontrolledBits, strip_eq_uncontrolledBits, uncontrolledBits, uncontrolledBits, hlen,
    List.map_inj_left] at h
  exact h j (List.mem_filter.mpr ⟨(mem_positions _ _).mpr ⟨h1, h2⟩, decide_eq_true hj⟩)

theorem strip_flipAt_of_mem_Q {W j : Nat} {b : BitSeq} (hj : j ∈ Q W b.length) : strip W (flipAt b j) = strip W b := by
  rw [strip_eq_uncontrolledBits, strip_eq_uncontrolledBits, uncontrolledBits, uncontrolledBits, flipAt_length]
  refine List.map_congr_left fun k hk => bitAt_flipAt_ne b ?_
  rintro rfl
  exact of_decide_eq_true (List.mem_filter.mp hk).2 hj

/-- An error that no repair takes back, at no present control position, is in the result. -/
theorem strip_repair_flipAt_ne {W j : Nat} {M : List Nat} {b : BitSeq} (h1 : 1 ≤ j) (h2 : j ≤ b.length)
    (hj : j ∉ Q W b.length) (hM : M ≠ [] → M.sum ≠ j) : strip W (repair M (flipAt b j)) ≠ strip W b := by
  intro h
  have hstill : bitAt (repair M (flipAt b j)) j = bitAt (flipAt b j) j := by
    by_contra hne
    obtain ⟨hnil, hsum⟩ := (bitAt_repair_ne_iff M h1 (by simpa using h2)).mp hne
    exact hM hnil hsum.symm
  have hsame := bitAt_eq_of_strip_eq (by rw [repair_length, flipAt_length]) h h1 h2 hj
  rw [hstill, bitAt_flipAt b j j h1 h2, if_pos rfl] at hsame
  exact Bool.not_ne_self _ hsame

end Sys2Proof.Machine
end

section
/-! A code block given to the decoder (spec 44_stream.md R103): its mismatch set, and what stripping leaves of it, with
and without `agree(L)`. -/

namespace Sys2Proof.Machine

variable {W : Nat} {d : BitSeq}

theorem Q_encodeBlock_of_agree (hW : d.length ≤ W) (h : agree W d.length = true) :
    Q W (encodeBlock W d).length = Q W d.length := by
  rw [encodeBlock_length, Q_code_of_agree hW h]

/-- With `agree(L)` the stripped positions are those of the placeholders, so the data positions are left. -/
theorem strip_eq_map_pos (hW : d.length ≤ W) (h : agree W d.length = true) {b : BitSeq}
    (hlen : b.length = d.length + parityCount W d.length) :
    strip W b = (positions d.length).map fun t => bitAt b (pos W d.length t) := by
  have hdata : strip W b = (dataPositions W d.length).map (bitAt b) := by
    rw [strip_eq_uncontrolledBits, uncontrolledBits, hlen, Q_code_of_agree hW h, dataPositions]
  rw [hdata, dataPositions_eq_map_pos, List.map_map]
  rfl

theorem strip_encodeBlock_of_agree (hW : d.length ≤ W) (h : agree W d.length = true) :
    strip W (encodeBlock W d) = d := by
  rw [strip_eq_map_pos hW h (encodeBlock_length W d)]
  refine Eq.trans (List.map_congr_left fun t ht => ?_) (map_bitAt_positions d)
  obtain ⟨h1, h2⟩ := (mem_positions _ t).mp ht
  exact bitAt_encodeBlock_pos h1 h2

theorem mismatches_encodeBlock_of_agree (hW : d.length ≤ W) (h : agree W d.length = true) :
    mismatches W (encodeBlock W d) = [] := by
  rw [mismatches_eq_nil_iff, Q_encodeBlock_of_agree hW h]
  exact fun p hp => bitAt_encodeBlock_of_mem_Q hp

/-- Without `agree(L)` the decoder takes the data bit at `2 ^ m(L)` for a parity bit, which alone can mismatch. -/
theorem mismatches_encodeBlock_of_not_agree (hW : d.length ≤ W) (h : agree W d.length = false) :
    mismatches W (encodeBlock W d) =
      if bitAt (encodeBlock W d) (2 ^ parityCount W d.length) ≠
        parityTree W (encodeBlock W d) (2 ^ parityCount W d.length) then [2 ^ parityCount W d.length] else [] := by
  have hclean : (Q W d.length).filter
      (fun p => bitAt (encodeBlock W d) p != parityTree W (encodeBlock W d) p) = [] :=
    List.filter_eq_nil_iff.mpr fun p hp => by simp [bitAt_encodeBlock_of_mem_Q hp]
  rw [mismatches_eq_treeMismatches, treeMismatches, encodeBlock_length, Q_code_of_not_agree hW h,
    List.filter_append, hclean, List.nil_append, List.filter_singleton]
  simp only [Bool.cond_eq_ite, bne_iff_ne]

/-- Without `agree(L)` one data bit is stripped with the parity bits. -/
theorem strip_length_of_not_agree (h1 : 1 ≤ d.length) (hW : d.length ≤ W) (h : agree W d.length = false) {b : BitSeq}
    (hlen : b.length = (encodeBlock W d).length) : (strip W b).length + 1 = d.length := by
  have hcount : (Q W (encodeBlock W d).length).length = parityCount W d.length + 1 := by
    rw [encodeBlock_length, Q_code_of_not_agree hW h, List.length_append, List.length_singleton, parityCount]
  rw [strip_length, hlen, hcount, encodeBlock_length]
  omega

/-- The data positions are different from each other (30_encoding.md R61). -/
theorem pos_inj {s t : Nat} (hs : 1 ≤ s ∧ s ≤ d.length) (ht : 1 ≤ t ∧ t ≤ d.length)
    (h : pos W d.length s = pos W d.length t) : s = t := by
  have hnodup : ((positions d.length).map (pos W d.length)).Nodup := by
    rw [← dataPositions_eq_map_pos]
    exact (positions_nodup _).filter _
  exact List.inj_on_of_nodup_map hnodup ((mem_positions _ s).mpr hs) ((mem_positions _ t).mpr ht) h

/-- Stripping a code block with one data bit wrong gives the data with that bit wrong (R107). -/
theorem strip_flipAt_pos (hW : d.length ≤ W) (h : agree W d.length = true) {t : Nat} (h1 : 1 ≤ t) (h2 : t ≤ d.length) :
    strip W (flipAt (encodeBlock W d) (pos W d.length t)) = flipAt d t := by
  obtain ⟨⟨hp1, hp2⟩, -⟩ := (mem_dataPositions W d.length _).mp (pos_mem_dataPositions (W := W) h1 h2)
  rw [← encodeBlock_length] at hp2
  rw [strip_eq_map_pos hW h (by rw [flipAt_length, encodeBlock_length])]
  refine ext_bitAt (by simp) fun s hs1 hs2 => ?_
  simp only [List.length_map, positions_length] at hs2
  have hsame : pos W d.length s = pos W d.length t ↔ s = t :=
    ⟨pos_inj ⟨hs1, hs2⟩ ⟨h1, h2⟩, fun heq => by rw [heq]⟩
  rw [bitAt_map_positions _ hs1 hs2, bitAt_flipAt_eq_xor _ hp1 hp2, bitAt_encodeBlock_pos hs1 hs2,
    bitAt_flipAt_eq_xor d h1 h2]
  simp only [hsame]

/-- Every position of a block is correctable exactly when `2 ^ m(L)` is not one of them (R104). -/
theorem all_correctable_iff {L : Nat} (h : L ≤ W) (hagree : agree W L = true) :
    (∀ j, 1 ≤ j → j ≤ L + parityCount W L → correctable W (L + parityCount W L) j) ↔
      L + parityCount W L < 2 ^ parityCount W L := by
  simp only [correctable, Q_code_of_agree h hagree]
  constructor
  · intro hall
    by_contra hge
    have habsent : 2 ^ parityCount W L ∉ Q W L := by
      rw [two_pow_mem_Q h]
      exact lt_irrefl _
    obtain hmem | ⟨-, hmem⟩ := hall (2 ^ parityCount W L) Nat.one_le_two_pow (by omega)
    · exact habsent hmem
    · exact habsent (hmem _ ((two_pow_mem_pexp _ _).mpr Nat.testBit_two_pow_self))
  · intro hlt j h1 h2
    by_cases hP : j ∈ P W
    · obtain ⟨⟨k, rfl⟩, -⟩ := (mem_P W j).mp hP
      exact .inl ((two_pow_mem_Q h k).mpr ((Nat.pow_lt_pow_iff_right Nat.one_lt_two).mp (by omega)))
    · refine .inr ⟨hP, fun p hp => ?_⟩
      obtain ⟨k, rfl, hk⟩ := (mem_pexp j p).mp hp
      have hle := Nat.ge_two_pow_of_testBit hk
      exact (two_pow_mem_Q h k).mpr ((Nat.pow_lt_pow_iff_right Nat.one_lt_two).mp (by omega))

/-- A full block of a power of two has `2 ^ m(W) = W`, which is in the block; else `m(W) = K` (R104). -/
theorem full_block_correctable_iff (c : Config) : c.W + parityCount c.W c.W < 2 ^ parityCount c.W c.W ↔
    2 ^ (c.K - 1) < c.W ∧ c.W + c.K ≤ 2 ^ c.K - 1 := by
  rw [parityCount_eq_clog le_rfl]
  by_cases hpow : powerOfTwo c.W
  · have hK : 2 ^ (c.K - 1) = c.W := by
      obtain ⟨k, hk⟩ := id hpow
      rw [← clog_W_of_powerOfTwo hpow, hk, Nat.clog_pow 2 k Nat.one_lt_two]
    rw [clog_W_of_powerOfTwo hpow, hK]
    omega
  · have hlt : 2 ^ (c.K - 1) < c.W := lt_of_le_of_ne (two_pow_K_le c) fun heq => hpow ⟨_, heq.symm⟩
    have hpos : 0 < 2 ^ c.K := Nat.two_pow_pos _
    rw [clog_W_of_not_powerOfTwo hpow]
    omega

end Sys2Proof.Machine
end

section
/-! The block commands on a block put on the bus whole (spec 30_encoding.md R56, R62): what they leave, and the result
sequence the host reads. -/

namespace Sys2Proof.Machine

variable {c : Config} (r : Regs c)

@[simp] theorem operand_vecNat (b : BitSeq) : operand b.length (vecNat b) = b := seqOf_vecNat b

theorem perform_enc_block {d : BitSeq} (h : 1 ≤ d.length ∧ d.length ≤ c.W) :
    r.perform (.enc d.length (vecNat d)) = r.putResult 1 (encodeBlock c.W d) := by
  rw [perform_enc, r.enc_of_legal h, operand_vecNat]

theorem perform_dec_block {b : BitSeq} (h : 1 ≤ b.length ∧ b.length ≤ c.NMAX) :
    r.perform (.dec b.length (vecNat b)) = r.putResult 2 (strip c.W b) := by
  rw [perform_dec, r.dec_of_legal h, operand_vecNat]

theorem perform_decfix_block {b : BitSeq} (h : 1 ≤ b.length ∧ b.length ≤ c.NMAX) :
    r.perform (.decfix b.length (vecNat b)) = r.checkBlock b := by
  rw [perform_decfix, r.decfix_of_legal h, operand_vecNat]

theorem Regs.putResult_result (op : BitVec 3) {out : BitSeq} (h : out.length ≤ c.NMAX) :
    (r.putResult op out).result = out := by
  obtain ⟨⟨-, -, hresult, -⟩, -⟩ := r.putResult_spec op h
  exact hresult

theorem Regs.putResult_resBits_toNat (op : BitVec 3) {out : BitSeq} (h : out.length ≤ c.NMAX) :
    (r.putResult op out).resBits.toNat = vecNat out := vecOf_toNat h

theorem Regs.checkBlock_result {b : BitSeq} (h : b.length ≤ c.NMAX) :
    (r.checkBlock b).result = strip c.W (repair (mismatches c.W b) b) := by
  obtain ⟨-, -, hresult, -⟩ := r.checkBlock_checkedRecord h
  exact hresult

@[simp] theorem Regs.checkBlock_resPos (b : BitSeq) :
    (r.checkBlock b).resPos = BitVec.ofNat c.K (localized (mismatches c.W b)) := rfl
@[simp] theorem Regs.checkBlock_resMism (b : BitSeq) :
    (r.checkBlock b).resMism = mismatchVec c.K (mismatches c.W b) := rfl

theorem Regs.checkBlock_resPos_toNat (b : BitSeq) : (r.checkBlock b).resPos.toNat = (mismatches c.W b).sum := by
  rw [Regs.checkBlock_resPos, BitVec.toNat_ofNat, Nat.mod_eq_of_lt (localized_lt_two_pow_K c b), localized]

theorem Regs.checkBlock_resMism_of_clean {b : BitSeq} (h : mismatches c.W b = []) : (r.checkBlock b).resMism = 0 := by
  rw [Regs.checkBlock_resMism, mismatchVec_eq_ofNat_localized, h]
  rfl

theorem Regs.checkBlock_of_clean {b : BitSeq} (h : mismatches c.W b = []) :
    (r.checkBlock b).resErr = false ∧ r.countsOk (r.checkBlock b) := by
  obtain ⟨-, hcount⟩ | ⟨hM, -⟩ | ⟨hM, -⟩ := r.checkBlock_counters b
  · exact ⟨by rw [Regs.checkBlock_resErr, h]; rfl, hcount⟩
  · exact absurd h hM
  · exact absurd h hM

theorem Regs.checkBlock_of_repair {b : BitSeq} (h : mismatches c.W b ≠ []) (hle : (mismatches c.W b).sum ≤ b.length) :
    (r.checkBlock b).resErr = true ∧ r.countsRepair (r.checkBlock b) := by
  obtain ⟨hM, -⟩ | ⟨-, -, hcount⟩ | ⟨-, hout, -⟩ := r.checkBlock_counters b
  · exact absurd hM h
  · exact ⟨by rw [Regs.checkBlock_resErr, errorFound_iff]; exact h, hcount⟩
  · omega

theorem one_le_encodeBlock_length (W : Nat) {d : BitSeq} (h : 1 ≤ d.length) : 1 ≤ (encodeBlock W d).length := by
  rw [encodeBlock_length]
  exact Nat.le_add_right_of_le h

theorem encodeBlock_legal {d : BitSeq} (h1 : 1 ≤ d.length) (hW : d.length ≤ c.W) :
    1 ≤ (encodeBlock c.W d).length ∧ (encodeBlock c.W d).length ≤ c.NMAX :=
  ⟨one_le_encodeBlock_length c.W h1, encodeBlock_length_le_NMAX hW⟩

end Sys2Proof.Machine
end

section
/-! The statements about a block coded and then decoded (spec 44_stream.md R102 to R104, R107). -/

namespace Sys2Proof

open Sys2Proof.Machine

/-- Settles O43: a control position below the code block's length but not below `L` can only be `2 ^ m(L)`. -/
theorem controlSetsAgreeExactlyWhenAgree : Obligations.ControlSetsAgreeExactlyWhenAgree := by
  intro W L h1 hW
  exact ⟨fun p hp => (Q_sublist_Q W (Nat.le_add_right L _)).subset hp, Q_code_eq_iff_agree hW,
    agree_iff_no_control_beyond_data hW, agree_full_iff (h1.trans hW)⟩

/-- Settles O44: with `agree(L)` the decoder strips what the encoder inserted and finds each parity bit right. Without
it the decoder has `2 ^ m(L)` in addition, strips the bit there, and checks it as if it were a parity bit. -/
theorem blockRoundTripExactlyWhenAgree : Obligations.BlockRoundTripExactlyWhenAgree := by
  intro c r d h1 hW
  have hlegal := encodeBlock_legal h1 hW
  simp only [perform_enc_block r ⟨h1, hW⟩, Regs.putResult_resLen_toNat _ _ hlegal.2,
    Regs.putResult_resBits_toNat _ _ hlegal.2, perform_dec_block _ hlegal, perform_decfix_block _ hlegal,
    Regs.putResult_result _ _ hlegal.2, Regs.putResult_result _ _ (strip_length_le_NMAX hlegal.2),
    Regs.checkBlock_result _ hlegal.2]
  have hclean := (r.putResult 1 (encodeBlock c.W d)).checkBlock_of_clean (b := encodeBlock c.W d)
  refine ⟨fun hagree => ?_, fun hagree => ⟨⟨?_, ?_⟩, fun hne => ?_, fun heq => ?_⟩⟩
  · have hM := mismatches_encodeBlock_of_agree hW hagree
    have hstrip := strip_encodeBlock_of_agree hW hagree
    obtain ⟨hErr, hcount⟩ := hclean hM
    exact ⟨hstrip, by rw [hM]; exact hstrip, hErr, Regs.checkBlock_resMism_of_clean _ hM, hcount⟩
  · exact strip_length_of_not_agree h1 hW hagree rfl
  · exact strip_length_of_not_agree h1 hW hagree (repair_length _ _)
  · have hM := mismatches_encodeBlock_of_not_agree hW hagree
    rw [if_pos hne] at hM
    have hsum : (mismatches c.W (encodeBlock c.W d)).sum = 2 ^ parityCount c.W d.length := by
      rw [hM, List.sum_singleton]
    have hin : 2 ^ parityCount c.W d.length < (encodeBlock c.W d).length := by
      rw [encodeBlock_length]
      exact ((agree_eq_false_iff _ _).mp hagree).2
    obtain ⟨hErr, hcount⟩ := (r.putResult 1 (encodeBlock c.W d)).checkBlock_of_repair
      (by rw [hM]; exact List.cons_ne_nil _ _) (hsum.trans_le hin.le)
    exact ⟨hErr, by rw [Regs.checkBlock_resPos_toNat, hsum], hcount⟩
  · have hM := mismatches_encodeBlock_of_not_agree hW hagree
    rw [if_neg (not_not.mpr heq)] at hM
    exact hclean hM

/-- Settles O45: the mismatch set sums to `j` exactly for a correctable position, and the repair then takes the error
back. Otherwise the error, which is at no stripped position, stays in the result: nothing mismatches, or the sum is
lower. -/
theorem singleErrorCorrectedExactlyWhenCovered : Obligations.SingleErrorCorrectedExactlyWhenCovered := by
  intro c r d j h1 hW hagree hj1 hjN
  have hclean := mismatches_encodeBlock_of_agree hW hagree
  have hstrip := strip_encodeBlock_of_agree hW hagree
  have hlen := flipAt_length (encodeBlock c.W d) j
  have hlegal : 1 ≤ (flipAt (encodeBlock c.W d) j).length ∧ (flipAt (encodeBlock c.W d) j).length ≤ c.NMAX := by
    rw [hlen]
    exact encodeBlock_legal h1 hW
  have hperform := perform_decfix_block r hlegal
  rw [hlen] at hperform
  simp only [hperform, r.checkBlock_result hlegal.2, r.checkBlock_resPos_toNat]
  refine ⟨fun hcorr => ?_, fun hcorr => ?_⟩
  · obtain ⟨hM, hsum⟩ := mismatches_flipAt_of_correctable hclean hj1 hjN hcorr
    obtain ⟨hErr, hcount⟩ := r.checkBlock_of_repair hM (by omega)
    exact ⟨by rw [repair_of_sum_eq hM hsum hj1 hjN, hstrip], hErr, hsum, hcount⟩
  · have hjQ : j ∉ Q c.W (encodeBlock c.W d).length := fun hmem => hcorr (.inl hmem)
    have hunseen (hclass : posClass c.W j = .control ∨ posClass c.W j = .uncovered) :
        mismatches c.W (flipAt (encodeBlock c.W d) j) = [] :=
      mismatches_flipAt_of_unseen hclean hj1 hjN hjQ <| hclass.imp (posClass_eq_control_iff c.W j).mp
        fun h => ((posClass_eq_uncovered_iff c.W hj1).mp h).2
    have hpartly := mismatches_flipAt_of_partlyCovered hclean hj1 hjN
    refine ⟨?_, fun hclass => r.checkBlock_of_clean (hunseen hclass), fun hclass => ?_⟩
    · have hmiss : mismatches c.W (flipAt (encodeBlock c.W d) j) ≠ [] →
          (mismatches c.W (flipAt (encodeBlock c.W d) j)).sum ≠ j := by
        intro hM
        obtain hctl | huncov | hclass := posClass_of_not_correctable hj1 hjN hcorr
        · exact absurd (hunseen (.inl hctl)) hM
        · exact absurd (hunseen (.inr huncov)) hM
        · exact (hpartly hclass).2.ne
      simpa only [hstrip] using strip_repair_flipAt_ne hj1 hjN hjQ hmiss
    · obtain ⟨hM, hlt⟩ := hpartly hclass
      obtain ⟨hErr, hcount⟩ := r.checkBlock_of_repair hM (by omega)
      exact ⟨hErr, hlt, hcount⟩

/-- Settles O46: position `2 ^ m(L)` is not correctable, and all below it are. -/
theorem everySingleErrorCorrectableExactlyWhen : Obligations.EverySingleErrorCorrectableExactlyWhen := by
  refine ⟨fun W L _ hW => ⟨fun hlt => ?_, all_correctable_iff hW⟩, full_block_correctable_iff⟩
  rw [← Bool.not_eq_false, agree_eq_false_iff]
  omega

/-- Settles O47: an error at a present control position is stripped, and one elsewhere stands at some `pos(t)`. -/
theorem decPassesDataErrorsThrough : Obligations.DecPassesDataErrorsThrough := by
  intro c r d j h1 hW hagree hj1 hjN
  have hlen := flipAt_length (encodeBlock c.W d) j
  have hlegal : 1 ≤ (flipAt (encodeBlock c.W d) j).length ∧ (flipAt (encodeBlock c.W d) j).length ≤ c.NMAX := by
    rw [hlen]
    exact encodeBlock_legal h1 hW
  have hperform := perform_dec_block r hlegal
  rw [hlen] at hperform
  have hstrip := strip_encodeBlock_of_agree hW hagree
  simp only [hperform, r.putResult_result _ (strip_length_le_NMAX hlegal.2)]
  refine ⟨⟨fun hsame => ?_, fun hjQ => ?_⟩, fun hjQ => ?_, rfl, rfl, rfl⟩
  · by_contra hjQ
    exact strip_repair_flipAt_ne (M := []) hj1 hjN hjQ (absurd rfl) (hsame.trans hstrip.symm)
  · rw [strip_flipAt_of_mem_Q hjQ, hstrip]
  · have hdata : j ∈ dataPositions c.W d.length := by
      rw [mem_dataPositions, ← encodeBlock_length, ← Q_encodeBlock_of_agree hW hagree]
      exact ⟨⟨hj1, hjN⟩, hjQ⟩
    have ht := idxOf_lt_length_of_mem_dataPositions hdata
    have hresult := strip_flipAt_pos hW hagree (Nat.le_add_left 1 _) ht
    rw [pos_idxOf hdata] at hresult
    exact ⟨_, Nat.le_add_left 1 _, ht, pos_idxOf hdata, hresult⟩

end Sys2Proof
end

section
/-! The chunks of a stream (spec 44_stream.md R99 to R101): each chunk split off, the stream put together again, and the
lengths. -/

namespace Sys2Proof.Machine

@[simp] theorem chunks_nil (n : Nat) : chunks n [] = [] := by
  cases n with
  | zero => rfl
  | succ n => simp [chunks, Nat.div_eq_of_lt]

/-- The first chunk of a stream is split off, and the others are the chunks of what is left. -/
theorem chunks_of_ne_nil {n : Nat} (hn : 1 ≤ n) {x : BitSeq} (hx : x ≠ []) :
    chunks n x = x.take n :: chunks n (x.drop n) := by
  have hpos : 1 ≤ x.length := List.length_pos_iff.mpr hx
  have hcount : (x.length + n - 1) / n = ((x.drop n).length + n - 1) / n + 1 := by
    rw [← Nat.add_div_right _ hn, List.length_drop]
    rcases Nat.le_total n x.length with hle | hle
    · congr 1
      omega
    · rw [Nat.sub_eq_zero_of_le hle, Nat.zero_add, Nat.div_eq_of_lt_le (k := 1) (by omega) (by omega),
        Nat.div_eq_of_lt_le (k := 1) (by omega) (by omega)]
  rw [chunks, hcount, List.range_succ_eq_map, List.map_cons, List.map_map, Nat.zero_mul, List.drop_zero, chunks]
  congr 1
  refine List.map_congr_left fun k _ => ?_
  simp only [Function.comp_apply, List.drop_drop, Nat.succ_mul, Nat.add_comm n]

theorem chunks_of_length_le {n : Nat} {x : BitSeq} (h1 : 1 ≤ x.length) (h : x.length ≤ n) : chunks n x = [x] := by
  rw [chunks_of_ne_nil (h1.trans h) (List.length_pos_iff.mp h1), List.take_of_length_le h, List.drop_of_length_le h,
    chunks_nil]

/-- An induction over a stream that takes one chunk of `n` bits after the other. -/
theorem chunk_induction {motive : BitSeq → Prop} {n : Nat} (hn : 1 ≤ n) (nil : motive [])
    (step : ∀ x, x ≠ [] → motive (x.drop n) → motive x) (x : BitSeq) : motive x := by
  by_cases hx : x = []
  · rwa [hx]
  · have hpos : 1 ≤ x.length := List.length_pos_iff.mpr hx
    have hshorter : (x.drop n).length < x.length := by
      rw [List.length_drop]
      omega
    exact step x hx (chunk_induction hn nil step (x.drop n))
termination_by x.length

variable {n : Nat} (hn : 1 ≤ n)
include hn

theorem flatten_chunks (x : BitSeq) : (chunks n x).flatten = x := by
  induction x using chunk_induction hn with
  | nil => simp
  | step x hx ih => rw [chunks_of_ne_nil hn hx, List.flatten_cons, ih, List.take_append_drop]

theorem length_of_mem_chunks (x : BitSeq) : ∀ b ∈ chunks n x, 1 ≤ b.length ∧ b.length ≤ n := by
  induction x using chunk_induction hn with
  | nil => simp
  | step x hx ih =>
    have hpos : 1 ≤ x.length := List.length_pos_iff.mpr hx
    rw [chunks_of_ne_nil hn hx, List.forall_mem_cons, List.length_take]
    exact ⟨by omega, ih⟩

theorem length_of_mem_dropLast_chunks (x : BitSeq) : ∀ b ∈ (chunks n x).dropLast, b.length = n := by
  induction x using chunk_induction hn with
  | nil => simp
  | step x hx ih =>
    by_cases hrest : x.drop n = []
    · simp [chunks_of_ne_nil hn hx, hrest]
    · have hlong : n < x.length := Nat.not_le.mp fun hle => hrest (List.drop_of_length_le hle)
      have htail : chunks n (x.drop n) ≠ [] := by
        rw [chunks_of_ne_nil hn hrest]
        exact List.cons_ne_nil _ _
      rw [chunks_of_ne_nil hn hx, List.dropLast_cons_of_ne_nil htail, List.forall_mem_cons, List.length_take]
      exact ⟨Nat.min_eq_left hlong.le, ih⟩

end Sys2Proof.Machine
end

section
/-! The host's commands as operations on the registers (spec 44_stream.md R99, R100; 30_encoding.md R63): what one
issued command leaves, and a sequence of them as a fold. -/

namespace Sys2Proof.Machine

variable {c : Config} (r : Regs c)

/-- The port carries an issued command that fits it, so the unit performs it. -/
theorem Regs.issue_eq_perform {i : Instr} (h : i.len < 2 ^ c.LW ∧ i.bits < 2 ^ c.NMAX) : r.issue i = r.perform i := by
  rw [Regs.issue, unitStep_of_accepts r rfl rfl, instr_ofInstr ((i.wf_iff c).mpr h)]

theorem Regs.issue_clrstat : r.issue (.clrstat 0 0) = r.clrstat :=
  r.issue_eq_perform ⟨Nat.two_pow_pos _, Nat.two_pow_pos _⟩

/-- A block of at most `NMAX` bits fits both operand fields. -/
theorem block_fits {b : BitSeq} (h : b.length ≤ c.NMAX) : b.length < 2 ^ c.LW ∧ vecNat b < 2 ^ c.NMAX :=
  ⟨h.trans_lt (NMAX_lt_two_pow_LW c), (vecNat_lt b).trans_le (Nat.pow_le_pow_right (by omega) h)⟩

theorem Regs.issue_enc {d : BitSeq} (h : 1 ≤ d.length ∧ d.length ≤ c.W) :
    r.issue (.enc d.length (vecNat d)) = r.putResult 1 (encodeBlock c.W d) := by
  have hfits : d.length ≤ c.NMAX := h.2.trans (Nat.le_add_right _ _)
  rw [r.issue_eq_perform (i := .enc _ _) (block_fits hfits), perform_enc_block r h]

theorem Regs.issue_dec {b : BitSeq} (h : 1 ≤ b.length ∧ b.length ≤ c.NMAX) :
    r.issue (.dec b.length (vecNat b)) = r.putResult 2 (strip c.W b) := by
  rw [r.issue_eq_perform (i := .dec _ _) (block_fits h.2), perform_dec_block r h]

theorem Regs.issue_decfix {b : BitSeq} (h : 1 ≤ b.length ∧ b.length ≤ c.NMAX) :
    r.issue (.decfix b.length (vecNat b)) = r.checkBlock b := by
  rw [r.issue_eq_perform (i := .decfix _ _) (block_fits h.2), perform_decfix_block r h]

theorem Regs.issue_decfix_nil : r.issue (.decfix 0 0) = r.lenFault 3 := by
  rw [r.issue_eq_perform ⟨Nat.two_pow_pos _, Nat.two_pow_pos _⟩, perform_decfix, r.decfix_of_illegal (.inl rfl)]

/-- One command per chunk, each known by the registers it leaves and the result the host reads from them. -/
theorem issueChunks_eq {mk : Nat → Nat → Instr} {g : Regs c → BitSeq → Regs c} {f : BitSeq → BitSeq} {xs : List BitSeq}
    (h : ∀ x ∈ xs, ∀ r : Regs c, r.issue (mk x.length (vecNat x)) = g r x ∧ (g r x).result = f x) :
    issueChunks mk xs r = ((xs.map f).flatten, xs.foldl g r) := by
  induction xs generalizing r with
  | nil => rfl
  | cons x xs ih =>
    obtain ⟨hx, hxs⟩ := List.forall_mem_cons.mp h
    obtain ⟨hissue, hresult⟩ := hx r
    simp only [issueChunks, hissue, hresult, ih _ hxs, List.map_cons, List.flatten_cons, List.foldl_cons]

/-- A field that no operation of a sequence changes holds its value. -/
theorem foldl_keeps {α β : Type} (field : Regs c → β) {g : Regs c → α → Regs c}
    (h : ∀ r x, field (g r x) = field r) (xs : List α) : field (xs.foldl g r) = field r := by
  induction xs generalizing r with
  | nil => rfl
  | cons x xs ih => rw [List.foldl_cons, ih, h]

theorem foldl_putResult_frame (op : BitVec 3) (f : BitSeq → BitSeq) (xs : List BitSeq) :
    r.sameCounters (xs.foldl (fun r x => r.putResult op (f x)) r) ∧
      (xs.foldl (fun r x => r.putResult op (f x)) r).status = r.status :=
  ⟨⟨foldl_keeps r Regs.cntOk (by intros; rfl) xs, foldl_keeps r Regs.cntErr (by intros; rfl) xs,
    foldl_keeps r Regs.cntFix (by intros; rfl) xs⟩, foldl_keeps r Regs.status (by intros; rfl) xs⟩

theorem foldl_checkBlock_status (xs : List BitSeq) : (xs.foldl Regs.checkBlock r).status = r.status :=
  foldl_keeps r Regs.status (by intros; rfl) xs

/-- The block that a decode returns for the received block `b`, with repair or without (43_decoder.md R92, R93). -/
def decodeBlock (W : Nat) (fix : Bool) (b : BitSeq) : BitSeq :=
  strip W (if fix then repair (mismatches W b) b else b)

/-- What `ENCODE(x)` returns (R99). -/
def encodedStream (W : Nat) (x : BitSeq) : BitSeq := ((chunks W x).map (encodeBlock W)).flatten

/-- What `DECODE(y, fix)` returns (R100). -/
def decodedStream (c : Config) (fix : Bool) (y : BitSeq) : BitSeq :=
  ((chunks c.NMAX y).map (decodeBlock c.W fix)).flatten

theorem NMAX_pos (c : Config) : 1 ≤ c.NMAX := c.W_pos.trans (Nat.le_add_right _ _)

theorem encodeStream_eq (x : BitSeq) : encodeStream x r =
    (encodedStream c.W x, (chunks c.W x).foldl (fun r d => r.putResult 1 (encodeBlock c.W d)) r) := by
  refine issueChunks_eq r fun d hd r => ?_
  have hlegal := length_of_mem_chunks c.W_pos x d hd
  exact ⟨r.issue_enc hlegal, r.putResult_result 1 (encodeBlock_length_le_NMAX hlegal.2)⟩

theorem decodeStream_false_eq (y : BitSeq) : decodeStream false y r = (decodedStream c false y,
    (chunks c.NMAX y).foldl (fun r b => r.putResult 2 (strip c.W b)) r.clrstat) := by
  rw [decodeStream, r.issue_clrstat]
  refine issueChunks_eq r.clrstat fun b hb r => ?_
  have hlegal := length_of_mem_chunks (NMAX_pos c) y b hb
  exact ⟨r.issue_dec hlegal, r.putResult_result 2 (strip_length_le_NMAX hlegal.2)⟩

theorem decodeStream_true_eq (y : BitSeq) : decodeStream true y r = (decodedStream c true y,
    (chunks c.NMAX y).foldl Regs.checkBlock r.clrstat) := by
  rw [decodeStream, r.issue_clrstat]
  refine issueChunks_eq r.clrstat fun b hb r => ?_
  have hlegal := length_of_mem_chunks (NMAX_pos c) y b hb
  exact ⟨r.issue_decfix hlegal, r.checkBlock_result hlegal.2⟩

theorem encodeStream_result (x : BitSeq) : (encodeStream x r).1 = encodedStream c.W x := by
  rw [encodeStream_eq]

theorem decodeStream_result (fix : Bool) (y : BitSeq) : (decodeStream fix y r).1 = decodedStream c fix y := by
  cases fix with
  | false => rw [decodeStream_false_eq]
  | true => rw [decodeStream_true_eq]

end Sys2Proof.Machine
end

section
/-! The counters of a decode call (spec 44_stream.md R100, R108; 60_exceptions.md R121): each is a count over the
chunks, so it does not depend on their order and adds up over parts. -/

namespace Sys2Proof.Machine

variable {c : Config} (r : Regs c)

theorem bump_eq_add {n : Nat} (v : BitVec n) (b : Bool) : bump v b = v + BitVec.ofNat n b.toNat := by
  cases b with
  | false => exact (BitVec.add_zero v).symm
  | true => rfl

/-- A counter that counts `q` over the chunks, one chunk after the other. -/
theorem bump_add_countP {n : Nat} (v : BitVec n) (q : BitSeq → Bool) (x : BitSeq) (xs : List BitSeq) :
    bump v (q x) + BitVec.ofNat n (xs.countP q) = v + BitVec.ofNat n ((x :: xs).countP q) := by
  rw [bump_eq_add, BitVec.add_assoc, ← BitVec.ofNat_add, countP_cons_eq_toNat_add]

/-- `DECFIX` counts chunk `b` as correct: its check finds no mismatch, and an empty chunk is not checked (R89, R113). -/
def countedOk (W : Nat) (b : BitSeq) : Bool := decide (1 ≤ b.length) && !errorFound (mismatches W b)

/-- `DECFIX` counts chunk `b` as errored (R89). -/
def countedErr (W : Nat) (b : BitSeq) : Bool := errorFound (mismatches W b)

/-- `DECFIX` counts a repair of chunk `b` (R89). -/
def countedFix (W : Nat) (b : BitSeq) : Bool := flipApplied (mismatches W b) b.length

/-- From `r` to `r'` each counter grew by its count over the chunks `xs`. -/
def Regs.countedChunks (r r' : Regs c) (xs : List BitSeq) : Prop :=
  r'.cntOk = r.cntOk + BitVec.ofNat c.cntW (xs.countP (countedOk c.W)) ∧
  r'.cntErr = r.cntErr + BitVec.ofNat c.cntW (xs.countP (countedErr c.W)) ∧
  r'.cntFix = r.cntFix + BitVec.ofNat c.cntW (xs.countP (countedFix c.W))

/-- One chunk on the bus, which as an empty one faults and counts nothing. -/
theorem issue_decfix_counters {b : BitSeq} (h : b.length ≤ c.NMAX) :
    (r.issue (.decfix b.length (vecNat b))).cntOk = bump r.cntOk (countedOk c.W b) ∧
    (r.issue (.decfix b.length (vecNat b))).cntErr = bump r.cntErr (countedErr c.W b) ∧
    (r.issue (.decfix b.length (vecNat b))).cntFix = bump r.cntFix (countedFix c.W b) := by
  by_cases hb : 1 ≤ b.length
  · rw [r.issue_decfix ⟨hb, h⟩, countedOk, decide_eq_true hb, Bool.true_and]
    exact ⟨rfl, rfl, rfl⟩
  · obtain rfl : b = [] := List.eq_nil_of_length_eq_zero (by omega)
    have hM : mismatches c.W [] = [] := by
      rw [mismatches_eq_nil_iff]
      intro p hp
      simp at hp
    have hfault : r.issue (.decfix ([] : BitSeq).length (vecNat [])) = r.lenFault 3 := r.issue_decfix_nil
    rw [hfault, countedErr, countedFix, hM]
    exact ⟨rfl, rfl, rfl⟩

theorem issueChunks_decfix_counters {xs : List BitSeq} (h : ∀ x ∈ xs, x.length ≤ c.NMAX) :
    r.countedChunks (issueChunks .decfix xs r).2 xs := by
  induction xs generalizing r with
  | nil => exact ⟨(BitVec.add_zero _).symm, (BitVec.add_zero _).symm, (BitVec.add_zero _).symm⟩
  | cons x xs ih =>
    obtain ⟨hx, hxs⟩ := List.forall_mem_cons.mp h
    obtain ⟨hOk, hErr, hFix⟩ := issue_decfix_counters r hx
    obtain ⟨hOk', hErr', hFix'⟩ := ih (r.issue (.decfix x.length (vecNat x))) hxs
    rw [hOk, bump_add_countP] at hOk'
    rw [hErr, bump_add_countP] at hErr'
    rw [hFix, bump_add_countP] at hFix'
    exact ⟨hOk', hErr', hFix'⟩

/-- Counts over a permutation of the two parts add up, modulo `2 ^ CNT_W`. -/
theorem ofNat_countP_of_perm {xs ys zs : List BitSeq} (h : zs.Perm (xs ++ ys)) (n : Nat) (q : BitSeq → Bool) :
    BitVec.ofNat n (zs.countP q) = BitVec.ofNat n (xs.countP q) + BitVec.ofNat n (ys.countP q) := by
  rw [h.countP_eq, List.countP_append, BitVec.ofNat_add]

/-- The counters of a decode call with repair: no chunk of a stream is empty. -/
theorem decodeStream_true_counters (y : BitSeq) :
    (decodeStream true y r).2.cntOk =
      BitVec.ofNat c.cntW ((chunks c.NMAX y).countP fun b => !errorFound (mismatches c.W b)) ∧
    (decodeStream true y r).2.cntErr =
      BitVec.ofNat c.cntW ((chunks c.NMAX y).countP fun b => errorFound (mismatches c.W b)) ∧
    (decodeStream true y r).2.cntFix =
      BitVec.ofNat c.cntW ((chunks c.NMAX y).countP fun b => flipApplied (mismatches c.W b) b.length) := by
  have hlen := length_of_mem_chunks (NMAX_pos c) y
  obtain ⟨hOk, hErr, hFix⟩ := issueChunks_decfix_counters r.clrstat fun b hb => (hlen b hb).2
  rw [decodeStream, r.issue_clrstat]
  refine ⟨hOk.trans ?_, hErr.trans (BitVec.zero_add _), hFix.trans (BitVec.zero_add _)⟩
  have hcount : (chunks c.NMAX y).countP (countedOk c.W) =
      (chunks c.NMAX y).countP fun b => !errorFound (mismatches c.W b) :=
    List.countP_congr fun b hb => by rw [countedOk, decide_eq_true (hlen b hb).1, Bool.true_and]
  rw [hcount]
  exact BitVec.zero_add _

end Sys2Proof.Machine
end

section
/-! An encoded stream decoded (spec 44_stream.md R105, R106): block by block when the code blocks of full chunks fill
the bus, and with fewer bits when they do not. -/

namespace Sys2Proof.Machine

variable {c : Config} (fix : Bool)

@[simp] theorem encodedStream_nil (W : Nat) : encodedStream W [] = [] := by simp [encodedStream]

@[simp] theorem decodedStream_nil : decodedStream c fix [] = [] := by simp [decodedStream]

theorem encodedStream_of_ne_nil {W : Nat} (hW : 1 ≤ W) {x : BitSeq} (hx : x ≠ []) :
    encodedStream W x = encodeBlock W (x.take W) ++ encodedStream W (x.drop W) := by
  rw [encodedStream, chunks_of_ne_nil hW hx, List.map_cons, List.flatten_cons, encodedStream]

theorem decodedStream_of_ne_nil {y : BitSeq} (hy : y ≠ []) :
    decodedStream c fix y = decodeBlock c.W fix (y.take c.NMAX) ++ decodedStream c fix (y.drop c.NMAX) := by
  rw [decodedStream, chunks_of_ne_nil (NMAX_pos c) hy, List.map_cons, List.flatten_cons, decodedStream]

theorem encodedStream_of_length_le {W : Nat} {x : BitSeq} (h1 : 1 ≤ x.length) (h : x.length ≤ W) :
    encodedStream W x = encodeBlock W x := by
  simp [encodedStream, chunks_of_length_le h1 h]

theorem decodedStream_of_length_le {y : BitSeq} (h1 : 1 ≤ y.length) (h : y.length ≤ c.NMAX) :
    decodedStream c fix y = decodeBlock c.W fix y := by
  simp [decodedStream, chunks_of_length_le h1 h]

theorem decodedStream_append {b : BitSeq} (hb : b.length = c.NMAX) (y : BitSeq) :
    decodedStream c fix (b ++ y) = decodeBlock c.W fix b ++ decodedStream c fix y := by
  have hne : b ++ y ≠ [] := List.append_ne_nil_of_left_ne_nil (List.length_pos_iff.mp (by rw [hb]; exact NMAX_pos c)) y
  rw [decodedStream_of_ne_nil fix hne, List.take_left' hb, List.drop_left' hb]

/-- A repair does not change the length, so both decodes return as many bits. -/
theorem decodeBlock_length (W : Nat) (b : BitSeq) : (decodeBlock W fix b).length = (strip W b).length := by
  cases fix with
  | false => rfl
  | true => rw [decodeBlock, if_pos rfl, strip_length, strip_length, repair_length]

/-- A block round-trips exactly with `agree(L)`: without it one bit is missing (R103). -/
theorem decodeBlock_encodeBlock_eq_iff {W : Nat} {d : BitSeq} (h1 : 1 ≤ d.length) (hW : d.length ≤ W) :
    decodeBlock W fix (encodeBlock W d) = d ↔ agree W d.length = true := by
  constructor
  · intro heq
    by_contra hne
    have hshort := strip_length_of_not_agree h1 hW (Bool.eq_false_of_not_eq_true hne) rfl
    rw [← decodeBlock_length fix, heq] at hshort
    omega
  · intro hagree
    have hunrepaired : (if fix then repair (mismatches W (encodeBlock W d)) (encodeBlock W d) else encodeBlock W d) =
        encodeBlock W d := by
      rw [mismatches_encodeBlock_of_agree hW hagree]
      exact ite_self _
    rw [decodeBlock, hunrepaired, strip_encodeBlock_of_agree hW hagree]

theorem lastChunkLen_of_le {W T : Nat} (h1 : 1 ≤ T) (h : T ≤ W) : lastChunkLen W T = T := by
  rw [lastChunkLen, Nat.div_eq_of_lt (by omega), Nat.mul_zero, Nat.sub_zero]

theorem lastChunkLen_of_lt {W T : Nat} (hW : 1 ≤ W) (h : W < T) : lastChunkLen W T = lastChunkLen W (T - W) := by
  obtain ⟨k, rfl⟩ : ∃ k, T = k + 1 + W := ⟨T - W - 1, by omega⟩
  have hdiv : (k + 1 + W - 1) / W = k / W + 1 := by
    rw [← Nat.add_div_right k hW]
    congr 1
    omega
  rw [lastChunkLen, lastChunkLen, hdiv, Nat.mul_succ, Nat.add_sub_cancel, Nat.add_sub_cancel]
  omega

/-- The code block of a full chunk fills the bus when `W` is no power of two (42_encoder.md R81). -/
theorem encodeBlock_length_of_full {d : BitSeq} (hd : d.length = c.W) (hpow : ¬powerOfTwo c.W) :
    (encodeBlock c.W d).length = c.NMAX := by
  rw [encodeBlock_length_eq_clog hd.le, hd, clog_W_of_not_powerOfTwo hpow, Config.NMAX]

/-- A stream of one chunk, or of chunks whose full code blocks fill the bus, is decoded in the blocks it was encoded in,
and all but the last return their data (R106). -/
theorem decodedStream_encodedStream_eq_iff {x : BitSeq} (hx : x ≠ []) (h : x.length ≤ c.W ∨ ¬powerOfTwo c.W) :
    decodedStream c fix (encodedStream c.W x) = x ↔ agree c.W (lastChunkLen c.W x.length) = true := by
  induction x using chunk_induction c.W_pos with
  | nil => exact absurd rfl hx
  | step x _ ih =>
    have h1 : 1 ≤ x.length := List.length_pos_iff.mpr hx
    rcases Nat.lt_or_ge c.W x.length with hlong | hshort
    · have hpow : ¬powerOfTwo c.W := h.resolve_left (Nat.not_le.mpr hlong)
      have htake : (x.take c.W).length = c.W := List.length_take_of_le hlong.le
      have hdrop : x.drop c.W ≠ [] := mt List.drop_eq_nil_iff.mp (Nat.not_le.mpr hlong)
      have hagree : agree c.W (x.take c.W).length = true := by
        rw [htake]
        exact (agree_full_iff c.W_pos).mpr (.inl hpow)
      have hfirst : decodeBlock c.W fix (encodeBlock c.W (x.take c.W)) = x.take c.W :=
        (decodeBlock_encodeBlock_eq_iff fix (c.W_pos.trans htake.ge) htake.le).mpr hagree
      rw [encodedStream_of_ne_nil c.W_pos hx, decodedStream_append fix (encodeBlock_length_of_full htake hpow), hfirst,
        lastChunkLen_of_lt c.W_pos hlong, ← List.length_drop, ← ih hdrop (.inr hpow)]
      conv_lhs => rhs; rw [← List.take_append_drop c.W x]
      exact List.append_right_inj _
    · obtain ⟨hlen1, hlenN⟩ := encodeBlock_legal h1 hshort
      rw [encodedStream_of_length_le h1 hshort, decodedStream_of_length_le fix hlen1 hlenN,
        lastChunkLen_of_le h1 hshort, decodeBlock_encodeBlock_eq_iff fix h1 hshort]

/-- Fewer bits than a code block of `L` data bits strip to fewer than `L` bits. -/
theorem strip_length_lt {W L : Nat} (h1 : 1 ≤ L) {b : BitSeq} (hb : b.length < L + parityCount W L) :
    (strip W b).length < L := by
  rw [strip_length]
  rcases Nat.lt_or_ge b.length L with hlt | hge
  · omega
  · have hmore : parityCount W L ≤ (Q W b.length).length := (Q_sublist_Q W hge).length_le
    omega

/-- Fewer bits than `q` full buses and a code block of `L` data bits decode to fewer than `q * W + L` bits. -/
theorem decodedStream_length_lt {L : Nat} (h1 : 1 ≤ L) (hL : L ≤ c.W) (q : Nat) {y : BitSeq}
    (hy : y.length < q * c.NMAX + (L + parityCount c.W L)) : (decodedStream c fix y).length < q * c.W + L := by
  induction q generalizing y with
  | zero =>
    rw [Nat.zero_mul, Nat.zero_add] at hy ⊢
    have hm := parityCount_le_K c L
    by_cases hne : y = []
    · rw [hne, decodedStream_nil]
      exact h1
    · have hfits : y.length ≤ c.NMAX := by
        rw [Config.NMAX]
        omega
      rw [decodedStream_of_length_le fix (List.length_pos_iff.mpr hne) hfits, decodeBlock_length]
      exact strip_length_lt h1 hy
  | succ q ih =>
    rw [Nat.succ_mul] at hy ⊢
    by_cases hne : y = []
    · rw [hne, decodedStream_nil]
      exact Nat.lt_add_left _ h1
    · have hrest : (decodedStream c fix (y.drop c.NMAX)).length < q * c.W + L := by
        refine ih ?_
        rw [List.length_drop]
        omega
      have hfirst : (strip c.W (y.take c.NMAX)).length ≤ c.W := strip_length_le_W (List.length_take_le _ _)
      rw [decodedStream_of_ne_nil fix hne, List.length_append, decodeBlock_length]
      omega

/-- For a power of two each full chunk is one bit short of the bus (42_encoder.md R81): `q` full chunks and a last one
of `L` bits make `q` bits less than `q` full buses and the last code block. -/
theorem encodedStream_length_of_powerOfTwo (hpow : powerOfTwo c.W) {x : BitSeq} (hx : x ≠ []) :
    ∃ q L, 1 ≤ L ∧ L ≤ c.W ∧ x.length = q * c.W + L ∧
      (encodedStream c.W x).length + q = q * c.NMAX + (L + parityCount c.W L) := by
  induction x using chunk_induction c.W_pos with
  | nil => exact absurd rfl hx
  | step x _ ih =>
    have h1 : 1 ≤ x.length := List.length_pos_iff.mpr hx
    rcases Nat.lt_or_ge c.W x.length with hlong | hshort
    · obtain ⟨q, L, hL1, hLW, hlen, henc⟩ := ih (mt List.drop_eq_nil_iff.mp (Nat.not_le.mpr hlong))
      have htake : (x.take c.W).length = c.W := List.length_take_of_le hlong.le
      have hK : 1 ≤ c.K := Nat.le_add_left 1 _
      rw [List.length_drop] at hlen
      refine ⟨q + 1, L, hL1, hLW, ?_, ?_⟩
      · rw [Nat.succ_mul]
        omega
      · rw [encodedStream_of_ne_nil c.W_pos hx, List.length_append, encodeBlock_length_eq_clog htake.le, htake,
          clog_W_of_powerOfTwo hpow, Nat.succ_mul]
        have hN : c.NMAX = c.W + c.K := rfl
        omega
    · exact ⟨0, x.length, h1, hshort, by omega, by
        rw [encodedStream_of_length_le h1 hshort, encodeBlock_length]; omega⟩

/-- More than one chunk of a power of two of bits decodes to fewer bits (R105, R106). -/
theorem decodedStream_encodedStream_ne (hpow : powerOfTwo c.W) {x : BitSeq} (hlong : c.W < x.length) :
    decodedStream c fix (encodedStream c.W x) ≠ x := by
  have hx : x ≠ [] := List.length_pos_iff.mp (Nat.zero_lt_of_lt hlong)
  obtain ⟨q, L, hL1, hLW, hlen, henc⟩ := encodedStream_length_of_powerOfTwo hpow hx
  have hq : q ≠ 0 := by
    rintro rfl
    omega
  have hshorter := decodedStream_length_lt fix hL1 hLW q (y := encodedStream c.W x) (by omega)
  intro heq
  rw [heq] at hshorter
  omega

end Sys2Proof.Machine
end

section
/-! The statements about streams (spec 44_stream.md R99 to R101, R106, R108). -/

namespace Sys2Proof

open Sys2Proof.Machine

/-- Settles O26: each counter is a count over the chunks of its unit, and counts add up over any split and order. -/
theorem splitDecodeCountersAddUp : Obligations.SplitDecodeCountersAddUp := by
  intro c ra rb rc xs ys zs hlen hperm ⟨hOka, hErra, hFixa⟩ ⟨hOkb, hErrb, hFixb⟩ ⟨hOkc, hErrc, hFixc⟩
  obtain ⟨hlenx, hleny⟩ := List.forall_mem_append.mp hlen
  obtain ⟨hOka', hErra', hFixa'⟩ := issueChunks_decfix_counters ra hlenx
  obtain ⟨hOkb', hErrb', hFixb'⟩ := issueChunks_decfix_counters rb hleny
  obtain ⟨hOkc', hErrc', hFixc'⟩ := issueChunks_decfix_counters rc fun z hz => hlen z (hperm.mem_iff.mp hz)
  have hsum (q : BitSeq → Bool) : 0 + BitVec.ofNat c.cntW (zs.countP q) =
      0 + BitVec.ofNat c.cntW (xs.countP q) + (0 + BitVec.ofNat c.cntW (ys.countP q)) := by
    rw [ofNat_countP_of_perm hperm, zero_add, zero_add, zero_add]
  refine ⟨?_, ?_, ?_⟩
  · rw [hOka', hOkb', hOkc', ← hOka, ← hOkb, ← hOkc]
    exact hsum (countedOk c.W)
  · rw [hErra', hErrb', hErrc', ← hErra, ← hErrb, ← hErrc]
    exact hsum (countedErr c.W)
  · rw [hFixa', hFixb', hFixc', ← hFixa, ← hFixb, ← hFixc]
    exact hsum (countedFix c.W)

/-- Settles O49: every chunk has a legal length, so every command issued writes its block's result, and only `CLRSTAT`
and `DECFIX` touch a counter. -/
theorem streamsAreCodedChunkByChunk : Obligations.StreamsAreCodedChunkByChunk := by
  intro c r x
  refine ⟨?_, ?_, ?_, flatten_chunks c.W_pos x, length_of_mem_chunks c.W_pos x,
    length_of_mem_dropLast_chunks c.W_pos x, flatten_chunks (NMAX_pos c) x, length_of_mem_chunks (NMAX_pos c) x,
    length_of_mem_dropLast_chunks (NMAX_pos c) x⟩
  · rw [encodeStream_eq]
    exact ⟨rfl, foldl_putResult_frame r 1 (encodeBlock c.W) _⟩
  · rw [decodeStream_false_eq]
    obtain ⟨⟨hOk, hErr, hFix⟩, hstatus⟩ := foldl_putResult_frame r.clrstat 2 (strip c.W) (chunks c.NMAX x)
    exact ⟨rfl, hOk, hErr, hFix, hstatus⟩
  · obtain ⟨hOk, hErr, hFix⟩ := decodeStream_true_counters r x
    refine ⟨decodeStream_result r true x, hOk, hErr, hFix, ?_⟩
    rw [decodeStream_true_eq]
    exact foldl_checkBlock_status r.clrstat _

/-- Settles O50: one chunk, or full chunks that fill the bus, round-trip as their blocks do, which is up to the last
one; full chunks that do not fill the bus lose bits. -/
theorem streamRoundTripExactlyWhen : Obligations.StreamRoundTripExactlyWhen := by
  intro c r x fix
  rw [decodeStream_result, encodeStream_result]
  by_cases hx : x = []
  · simp [hx]
  have h1 : 1 ≤ x.length := List.length_pos_iff.mpr hx
  have hblocks := decodedStream_encodedStream_eq_iff (c := c) fix hx
  rcases Nat.lt_or_ge c.W x.length with hlong | hshort
  · by_cases hpow : powerOfTwo c.W
    · have hne := decodedStream_encodedStream_ne fix hpow hlong
      refine iff_of_false hne ?_
      rintro (h0 | ⟨-, hle, -⟩ | ⟨-, hnot, -⟩)
      · omega
      · omega
      · exact hnot hpow
    · rw [hblocks (.inr hpow)]
      refine ⟨fun hagree => .inr (.inr ⟨hlong, hpow, hagree⟩), ?_⟩
      rintro (h0 | ⟨-, hle, -⟩ | ⟨-, -, hagree⟩)
      · omega
      · omega
      · exact hagree
  · rw [hblocks (.inl hshort), lastChunkLen_of_le h1 hshort]
    refine ⟨fun hagree => .inr (.inl ⟨h1, hshort, hagree⟩), ?_⟩
    rintro (h0 | ⟨-, -, hagree⟩ | ⟨hlong, -⟩)
    · omega
    · exact hagree
    · omega

/-- Settles O48: the empty stream has no chunk, so a decode issues `CLRSTAT` alone, and every chunk has a bit. -/
theorem emptyStreamIssuesNoBlock : Obligations.EmptyStreamIssuesNoBlock := by
  intro c r
  have hdecode (fix : Bool) : decodeStream fix [] r = ([], r.perform (.clrstat 0 0)) := by
    rw [decodeStream, chunks_nil, r.issue_clrstat]
    rfl
  refine ⟨by rw [encodeStream, chunks_nil]; rfl, fun fix => ?_, fun x => ⟨fun b hb => ?_, fun b hb => ?_⟩⟩
  · rw [hdecode]
    exact ⟨rfl, rfl, rfl, rfl⟩
  · exact List.length_pos_iff.mp (length_of_mem_chunks c.W_pos x b hb).1
  · exact List.length_pos_iff.mp (length_of_mem_chunks (NMAX_pos c) x b hb).1

end Sys2Proof
end

section
/-! The faults (spec 60_exceptions.md R111 to R114): the code a command raises decides its record, its `STATUS` bit and
the fault code it leaves. -/

namespace Sys2Proof.Machine

variable {c : Config} (r : Regs c)

/-- A fault code other than 00 is ILLEGAL_OP or LEN_FAULT, and the command records that fault and nothing else. -/
theorem perform_of_faultCode_ne_zero {i : Instr} (h : faultCode c i ≠ 0) :
    (faultCode c i = 1 ∨ faultCode c i = 2) ∧
      r.perform i = r.recordFault (BitVec.ofNat 3 i.opcode) (faultCode c i) (faultCode c i) := by
  obtain ⟨hr, hcode⟩ | ⟨hzero, -⟩ := perform_cases r i
  · exact ⟨hcode.imp And.left And.left, hr⟩
  · exact absurd hzero h

/-- The mask of a fault is its code: ILLEGAL_OP adds bit 0, LEN_FAULT adds bit 1 (10_state.md R25). -/
theorem getLsbD_status_or_faultCode (status : BitVec 2) {code : BitVec 2} (h : code = 1 ∨ code = 2) :
    ((status ||| code).getLsbD 0 = true ↔ status.getLsbD 0 = true ∨ code = 1) ∧
    ((status ||| code).getLsbD 1 = true ↔ status.getLsbD 1 = true ∨ code = 2) := by
  obtain rfl | rfl := h <;> simp

@[simp] theorem Regs.checkBlock_resFlt (b : BitSeq) : (r.checkBlock b).resFlt = 0 := rfl

/-- A command without a fault leaves the fault code 00, and `NOP` leaves the code there was (10_state.md R34). -/
theorem perform_resFlt_of_faultCode_eq_zero {i : Instr} (h : faultCode c i = 0) :
    (i.opcode ≠ 0 → (r.perform i).resFlt = 0) ∧ (i.opcode = 0 → (r.perform i).resFlt = r.resFlt) := by
  refine ⟨fun hop => ?_, fun hop => by rw [perform_of_opcode_zero r hop, Regs.idle_resFlt]⟩
  obtain ⟨hr, -⟩ | ⟨-, hdone⟩ := perform_cases r i
  · rw [hr, Regs.recordFault_resFlt, h]
  · obtain ⟨hnop, -⟩ | ⟨-, hr⟩ | ⟨-, _, _, -, hr⟩ | ⟨-, _, _, -, hr⟩ | ⟨-, _, _, -, hr⟩ := hdone
    · exact absurd hnop hop
    all_goals simp [hr]

/-- All that ILLEGAL_OP does: its record, the counters kept, and of `STATUS` bit 0 set (60_exceptions.md R112, R114). -/
theorem Regs.illegalOp_spec (op : BitVec 3) :
    (r.illegalOp op).plainRecord op [] 1 ∧ r.sameCounters (r.illegalOp op) ∧
      (r.illegalOp op).status.getLsbD 0 = true ∧ (r.illegalOp op).status.getLsbD 1 = r.status.getLsbD 1 := by
  obtain ⟨hrecord, -, -⟩ := r.recordFault_spec op 1 1
  obtain ⟨hcounters, hlen⟩ := r.illegalOp_frame op
  exact ⟨hrecord, hcounters, by simp [Regs.illegalOp], hlen⟩

end Sys2Proof.Machine
end

section
/-! The obligations on the faults (spec 60_exceptions.md). -/

namespace Sys2Proof

open Sys2Proof.Machine

/-- Settles O19: a command with a fault code records that fault, whose `STATUS` mask is the code, and a command without
one keeps `STATUS` and leaves the code 00 unless it is `NOP`. -/
theorem faultsAreRaisedByBadOpsAndLengthsOnly : Obligations.FaultsAreRaisedByBadOpsAndLengthsOnly := by
  refine ⟨fun s i => exec_eq_perform i s, fun c r i => ⟨fun hfault => ?_, fun hzero => ⟨?_, ?_⟩⟩⟩
  · obtain ⟨hcode, hr⟩ := perform_of_faultCode_ne_zero r hfault
    obtain ⟨hrecord, hcounters, hstatus⟩ :=
      r.recordFault_spec (BitVec.ofNat 3 i.opcode) (faultCode c i) (faultCode c i)
    rw [hr, hstatus]
    exact ⟨hrecord, hcounters, getLsbD_status_or_faultCode r.status hcode⟩
  · rw [perform_status, hzero]
    exact BitVec.or_zero
  · exact perform_resFlt_of_faultCode_eq_zero r hzero

/-- Settles O18: each reserved op code is `illegalOp` with its own code. -/
theorem reservedOpsRecordIllegalOp : Obligations.ReservedOpsRecordIllegalOp := by
  refine ⟨fun s len bits => ⟨exec_eq_perform _ s, exec_eq_perform _ s, exec_eq_perform _ s⟩, ?_⟩
  rintro c r len bits i op (⟨rfl, rfl⟩ | ⟨rfl, rfl⟩ | ⟨rfl, rfl⟩)
  · exact r.illegalOp_spec 0b101#3
  · exact r.illegalOp_spec 0b110#3
  · exact r.illegalOp_spec 0b111#3

end Sys2Proof
end

section
/-! Reset: what a reset edge does to the unit and to the machine, and the edges of a unit since power-on (spec
70_reset_and_hazards.md R122 to R126). -/

namespace Sys2Proof.Machine

variable {c : Config}

/-- Of the three things an edge can do, one with `rst = 1` can only reset (R122). -/
theorem unitStep_of_rst (r : Regs c) {x : Cycle c} (hrst : x.rst = true) : unitStep c r x = Regs.reset c := by
  obtain ⟨-, hr⟩ | ⟨hrst', -⟩ | ⟨hrst', -⟩ := unitStep_cases r x
  · exact hr
  all_goals exact absurd hrst (ne_true_of_eq_false hrst')

@[simp] theorem Boot.outputs_unreset : (Boot.unreset : Boot c).outputs = none := rfl

theorem Boot.edge_unreset_of_rst {x : Cycle c} (hrst : x.rst = true) :
    (Boot.unreset : Boot c).edge x = .running (Regs.reset c) := if_pos hrst

theorem Boot.edge_unreset_of_not_rst {x : Cycle c} (hrst : x.rst = false) :
    (Boot.unreset : Boot c).edge x = .unreset := if_neg (ne_true_of_eq_false hrst)

@[simp] theorem Boot.run_nil (b : Boot c) : b.run [] = b := rfl

@[simp] theorem Boot.run_cons (b : Boot c) (x : Cycle c) (xs : List (Cycle c)) :
    b.run (x :: xs) = (b.edge x).run xs := rfl

theorem Boot.run_append (b : Boot c) (xs ys : List (Cycle c)) : b.run (xs ++ ys) = (b.run xs).run ys :=
  List.foldl_append

/-- Edges without `rst` leave a unit not yet reset as it is, whatever commands they present (R125). -/
theorem Boot.run_unreset_of_not_rst {xs : List (Cycle c)} (hrst : ∀ x ∈ xs, x.rst = false) :
    (Boot.unreset : Boot c).run xs = .unreset := by
  induction xs with
  | nil => exact Boot.run_nil _
  | cons x xs ih =>
    obtain ⟨hx, hxs⟩ := List.forall_mem_cons.mp hrst
    rw [Boot.run_cons, Boot.edge_unreset_of_not_rst hx, ih hxs]

/-- Once reset, a unit since power-on runs as its registers do. -/
theorem Boot.run_running (r : Regs c) (xs : List (Cycle c)) :
    (Boot.running r).run xs = .running (unitRun c r xs) :=
  List.foldl_hom Boot.running fun _ _ => rfl

end Sys2Proof.Machine
end

section
/-! The obligations on reset (spec 70_reset_and_hazards.md). -/

namespace Sys2Proof

open Sys2Proof.Machine

/-- Settles O7: edges without `rst` keep the unit `unreset` (log entry 12); the first edge with `rst` makes it
`running` with the reset registers, and from there its run is the unit's. -/
theorem beforeTheFirstResetNothingIsKnown : Obligations.BeforeTheFirstResetNothingIsKnown := by
  intro c xs hxs
  have hunreset : (Boot.unreset : Boot c).run xs = .unreset := Boot.run_unreset_of_not_rst hxs
  refine ⟨by rw [hunreset, Boot.outputs_unreset], fun x ys hx => ?_⟩
  calc (Boot.unreset : Boot c).run (xs ++ x :: ys)
      = (Boot.unreset.edge x).run ys := by rw [Boot.run_append, hunreset, Boot.run_cons]
    _ = (Boot.running (Regs.reset c)).run ys := by rw [Boot.edge_unreset_of_rst hx]
    _ = .running (unitRun c (Regs.reset c) ys) := Boot.run_running _ ys

/-- Settles O5: an edge with `rst` can only reset, and a step of the machine is the unit's step on the next scheduled
edge. -/
theorem resetEdgeWinsOverCommand : Obligations.ResetEdgeWinsOverCommand :=
  ⟨fun _ r _ hrst => unitStep_of_rst r hrst,
    fun r x p hrst => by rw [step_eq_unitStep, unitStep_of_rst r hrst]⟩

end Sys2Proof
end
